-- ==== Sys2Proof/Word.lean ====
section
/-! DEFINITION. The word types of the CORE (spec/00_scope.md R6, R8): an 8-bit data word and a 16-bit
CPU address. `+`, `-`, `&&&`, `|||`, `^^^` and `~~~` on them wrap at their width, as rule R9 says, because
they are `BitVec` operations. -/

namespace Sys2Proof

/-- A data word: 8 bits (R6). -/
abbrev Byte := BitVec 8

/-- A CPU bus address, also the width of PC and of the PPU address register: 16 bits (R6, R22, R35). -/
abbrev Addr := BitVec 16

end Sys2Proof
end

