-- ==== Sys2Proof/Syntax.lean ====
section
/-! DEFINITION. The instructions: one constructor for every legal row of spec/opcode_table.json (151 of them,
each one opcode with one addressing mode, spec/30_encoding.md R102) and the constructor `illegal` for the
105 rows tagged ILLEGAL (R104), which differ in their opcode byte alone and share the one rule R254
(log entry 1). An operand is what the encoding holds (R101): `n` an immediate byte, `z` a zero-page address,
`addr` a 16-bit address, `ptr` the 16-bit pointer of JMP indirect, `r` a branch offset. -/

namespace Sys2Proof

/-- An instruction of the decode table (R100, R102). -/
inductive Instr where
  -- Loads, stores and register transfers (spec/42_load_store_transfer.md)
  /-- `LDA #$nn`, opcode 0xA9 (R160). -/
  | ldaImm (n : Byte)
  /-- `LDA $zz`, opcode 0xA5 (R160). -/
  | ldaZp (z : Byte)
  /-- `LDA $zz,X`, opcode 0xB5 (R160). -/
  | ldaZpx (z : Byte)
  /-- `LDA $hhll`, opcode 0xAD (R160). -/
  | ldaAbs (addr : Addr)
  /-- `LDA $hhll,X`, opcode 0xBD (R160). -/
  | ldaAbx (addr : Addr)
  /-- `LDA $hhll,Y`, opcode 0xB9 (R160). -/
  | ldaAby (addr : Addr)
  /-- `LDA ($zz,X)`, opcode 0xA1 (R160). -/
  | ldaIzx (z : Byte)
  /-- `LDA ($zz),Y`, opcode 0xB1 (R160). -/
  | ldaIzy (z : Byte)
  /-- `LDX #$nn`, opcode 0xA2 (R161). -/
  | ldxImm (n : Byte)
  /-- `LDX $zz`, opcode 0xA6 (R161). -/
  | ldxZp (z : Byte)
  /-- `LDX $zz,Y`, opcode 0xB6 (R161). -/
  | ldxZpy (z : Byte)
  /-- `LDX $hhll`, opcode 0xAE (R161). -/
  | ldxAbs (addr : Addr)
  /-- `LDX $hhll,Y`, opcode 0xBE (R161). -/
  | ldxAby (addr : Addr)
  /-- `LDY #$nn`, opcode 0xA0 (R162). -/
  | ldyImm (n : Byte)
  /-- `LDY $zz`, opcode 0xA4 (R162). -/
  | ldyZp (z : Byte)
  /-- `LDY $zz,X`, opcode 0xB4 (R162). -/
  | ldyZpx (z : Byte)
  /-- `LDY $hhll`, opcode 0xAC (R162). -/
  | ldyAbs (addr : Addr)
  /-- `LDY $hhll,X`, opcode 0xBC (R162). -/
  | ldyAbx (addr : Addr)
  /-- `STA $zz`, opcode 0x85 (R163). -/
  | staZp (z : Byte)
  /-- `STA $zz,X`, opcode 0x95 (R163). -/
  | staZpx (z : Byte)
  /-- `STA $hhll`, opcode 0x8D (R163). -/
  | staAbs (addr : Addr)
  /-- `STA $hhll,X`, opcode 0x9D (R163). -/
  | staAbx (addr : Addr)
  /-- `STA $hhll,Y`, opcode 0x99 (R163). -/
  | staAby (addr : Addr)
  /-- `STA ($zz,X)`, opcode 0x81 (R163). -/
  | staIzx (z : Byte)
  /-- `STA ($zz),Y`, opcode 0x91 (R163). -/
  | staIzy (z : Byte)
  /-- `STX $zz`, opcode 0x86 (R164). -/
  | stxZp (z : Byte)
  /-- `STX $zz,Y`, opcode 0x96 (R164). -/
  | stxZpy (z : Byte)
  /-- `STX $hhll`, opcode 0x8E (R164). -/
  | stxAbs (addr : Addr)
  /-- `STY $zz`, opcode 0x84 (R165). -/
  | styZp (z : Byte)
  /-- `STY $zz,X`, opcode 0x94 (R165). -/
  | styZpx (z : Byte)
  /-- `STY $hhll`, opcode 0x8C (R165). -/
  | styAbs (addr : Addr)
  /-- `TAX`, opcode 0xAA (R166). -/
  | tax
  /-- `TAY`, opcode 0xA8 (R167). -/
  | tay
  /-- `TSX`, opcode 0xBA (R168). -/
  | tsx
  /-- `TXA`, opcode 0x8A (R169). -/
  | txa
  /-- `TXS`, opcode 0x9A (R170). -/
  | txs
  /-- `TYA`, opcode 0x98 (R171). -/
  | tya
  -- ALU operations (spec/43_alu.md)
  /-- `ADC #$nn`, opcode 0x69 (R180). -/
  | adcImm (n : Byte)
  /-- `ADC $zz`, opcode 0x65 (R180). -/
  | adcZp (z : Byte)
  /-- `ADC $zz,X`, opcode 0x75 (R180). -/
  | adcZpx (z : Byte)
  /-- `ADC $hhll`, opcode 0x6D (R180). -/
  | adcAbs (addr : Addr)
  /-- `ADC $hhll,X`, opcode 0x7D (R180). -/
  | adcAbx (addr : Addr)
  /-- `ADC $hhll,Y`, opcode 0x79 (R180). -/
  | adcAby (addr : Addr)
  /-- `ADC ($zz,X)`, opcode 0x61 (R180). -/
  | adcIzx (z : Byte)
  /-- `ADC ($zz),Y`, opcode 0x71 (R180). -/
  | adcIzy (z : Byte)
  /-- `SBC #$nn`, opcode 0xE9 (R181). -/
  | sbcImm (n : Byte)
  /-- `SBC $zz`, opcode 0xE5 (R181). -/
  | sbcZp (z : Byte)
  /-- `SBC $zz,X`, opcode 0xF5 (R181). -/
  | sbcZpx (z : Byte)
  /-- `SBC $hhll`, opcode 0xED (R181). -/
  | sbcAbs (addr : Addr)
  /-- `SBC $hhll,X`, opcode 0xFD (R181). -/
  | sbcAbx (addr : Addr)
  /-- `SBC $hhll,Y`, opcode 0xF9 (R181). -/
  | sbcAby (addr : Addr)
  /-- `SBC ($zz,X)`, opcode 0xE1 (R181). -/
  | sbcIzx (z : Byte)
  /-- `SBC ($zz),Y`, opcode 0xF1 (R181). -/
  | sbcIzy (z : Byte)
  /-- `AND #$nn`, opcode 0x29 (R182). -/
  | andImm (n : Byte)
  /-- `AND $zz`, opcode 0x25 (R182). -/
  | andZp (z : Byte)
  /-- `AND $zz,X`, opcode 0x35 (R182). -/
  | andZpx (z : Byte)
  /-- `AND $hhll`, opcode 0x2D (R182). -/
  | andAbs (addr : Addr)
  /-- `AND $hhll,X`, opcode 0x3D (R182). -/
  | andAbx (addr : Addr)
  /-- `AND $hhll,Y`, opcode 0x39 (R182). -/
  | andAby (addr : Addr)
  /-- `AND ($zz,X)`, opcode 0x21 (R182). -/
  | andIzx (z : Byte)
  /-- `AND ($zz),Y`, opcode 0x31 (R182). -/
  | andIzy (z : Byte)
  /-- `ORA #$nn`, opcode 0x09 (R183). -/
  | oraImm (n : Byte)
  /-- `ORA $zz`, opcode 0x05 (R183). -/
  | oraZp (z : Byte)
  /-- `ORA $zz,X`, opcode 0x15 (R183). -/
  | oraZpx (z : Byte)
  /-- `ORA $hhll`, opcode 0x0D (R183). -/
  | oraAbs (addr : Addr)
  /-- `ORA $hhll,X`, opcode 0x1D (R183). -/
  | oraAbx (addr : Addr)
  /-- `ORA $hhll,Y`, opcode 0x19 (R183). -/
  | oraAby (addr : Addr)
  /-- `ORA ($zz,X)`, opcode 0x01 (R183). -/
  | oraIzx (z : Byte)
  /-- `ORA ($zz),Y`, opcode 0x11 (R183). -/
  | oraIzy (z : Byte)
  /-- `EOR #$nn`, opcode 0x49 (R184). -/
  | eorImm (n : Byte)
  /-- `EOR $zz`, opcode 0x45 (R184). -/
  | eorZp (z : Byte)
  /-- `EOR $zz,X`, opcode 0x55 (R184). -/
  | eorZpx (z : Byte)
  /-- `EOR $hhll`, opcode 0x4D (R184). -/
  | eorAbs (addr : Addr)
  /-- `EOR $hhll,X`, opcode 0x5D (R184). -/
  | eorAbx (addr : Addr)
  /-- `EOR $hhll,Y`, opcode 0x59 (R184). -/
  | eorAby (addr : Addr)
  /-- `EOR ($zz,X)`, opcode 0x41 (R184). -/
  | eorIzx (z : Byte)
  /-- `EOR ($zz),Y`, opcode 0x51 (R184). -/
  | eorIzy (z : Byte)
  /-- `BIT $zz`, opcode 0x24 (R185). -/
  | bitZp (z : Byte)
  /-- `BIT $hhll`, opcode 0x2C (R185). -/
  | bitAbs (addr : Addr)
  /-- `CMP #$nn`, opcode 0xC9 (R186). -/
  | cmpImm (n : Byte)
  /-- `CMP $zz`, opcode 0xC5 (R186). -/
  | cmpZp (z : Byte)
  /-- `CMP $zz,X`, opcode 0xD5 (R186). -/
  | cmpZpx (z : Byte)
  /-- `CMP $hhll`, opcode 0xCD (R186). -/
  | cmpAbs (addr : Addr)
  /-- `CMP $hhll,X`, opcode 0xDD (R186). -/
  | cmpAbx (addr : Addr)
  /-- `CMP $hhll,Y`, opcode 0xD9 (R186). -/
  | cmpAby (addr : Addr)
  /-- `CMP ($zz,X)`, opcode 0xC1 (R186). -/
  | cmpIzx (z : Byte)
  /-- `CMP ($zz),Y`, opcode 0xD1 (R186). -/
  | cmpIzy (z : Byte)
  /-- `CPX #$nn`, opcode 0xE0 (R187). -/
  | cpxImm (n : Byte)
  /-- `CPX $zz`, opcode 0xE4 (R187). -/
  | cpxZp (z : Byte)
  /-- `CPX $hhll`, opcode 0xEC (R187). -/
  | cpxAbs (addr : Addr)
  /-- `CPY #$nn`, opcode 0xC0 (R188). -/
  | cpyImm (n : Byte)
  /-- `CPY $zz`, opcode 0xC4 (R188). -/
  | cpyZp (z : Byte)
  /-- `CPY $hhll`, opcode 0xCC (R188). -/
  | cpyAbs (addr : Addr)
  /-- `INC $zz`, opcode 0xE6 (R189). -/
  | incZp (z : Byte)
  /-- `INC $zz,X`, opcode 0xF6 (R189). -/
  | incZpx (z : Byte)
  /-- `INC $hhll`, opcode 0xEE (R189). -/
  | incAbs (addr : Addr)
  /-- `INC $hhll,X`, opcode 0xFE (R189). -/
  | incAbx (addr : Addr)
  /-- `DEC $zz`, opcode 0xC6 (R190). -/
  | decZp (z : Byte)
  /-- `DEC $zz,X`, opcode 0xD6 (R190). -/
  | decZpx (z : Byte)
  /-- `DEC $hhll`, opcode 0xCE (R190). -/
  | decAbs (addr : Addr)
  /-- `DEC $hhll,X`, opcode 0xDE (R190). -/
  | decAbx (addr : Addr)
  /-- `INX`, opcode 0xE8 (R191). -/
  | inx
  /-- `INY`, opcode 0xC8 (R192). -/
  | iny
  /-- `DEX`, opcode 0xCA (R193). -/
  | dex
  /-- `DEY`, opcode 0x88 (R194). -/
  | dey
  -- Shifts and rotates (spec/44_shift_rotate.md)
  /-- `ASL (accumulator form; also written ASL A)`, opcode 0x0A (R210). -/
  | aslAcc
  /-- `ASL $zz`, opcode 0x06 (R210). -/
  | aslZp (z : Byte)
  /-- `ASL $zz,X`, opcode 0x16 (R210). -/
  | aslZpx (z : Byte)
  /-- `ASL $hhll`, opcode 0x0E (R210). -/
  | aslAbs (addr : Addr)
  /-- `ASL $hhll,X`, opcode 0x1E (R210). -/
  | aslAbx (addr : Addr)
  /-- `LSR (accumulator form; also written LSR A)`, opcode 0x4A (R211). -/
  | lsrAcc
  /-- `LSR $zz`, opcode 0x46 (R211). -/
  | lsrZp (z : Byte)
  /-- `LSR $zz,X`, opcode 0x56 (R211). -/
  | lsrZpx (z : Byte)
  /-- `LSR $hhll`, opcode 0x4E (R211). -/
  | lsrAbs (addr : Addr)
  /-- `LSR $hhll,X`, opcode 0x5E (R211). -/
  | lsrAbx (addr : Addr)
  /-- `ROL (accumulator form; also written ROL A)`, opcode 0x2A (R212). -/
  | rolAcc
  /-- `ROL $zz`, opcode 0x26 (R212). -/
  | rolZp (z : Byte)
  /-- `ROL $zz,X`, opcode 0x36 (R212). -/
  | rolZpx (z : Byte)
  /-- `ROL $hhll`, opcode 0x2E (R212). -/
  | rolAbs (addr : Addr)
  /-- `ROL $hhll,X`, opcode 0x3E (R212). -/
  | rolAbx (addr : Addr)
  /-- `ROR (accumulator form; also written ROR A)`, opcode 0x6A (R213). -/
  | rorAcc
  /-- `ROR $zz`, opcode 0x66 (R213). -/
  | rorZp (z : Byte)
  /-- `ROR $zz,X`, opcode 0x76 (R213). -/
  | rorZpx (z : Byte)
  /-- `ROR $hhll`, opcode 0x6E (R213). -/
  | rorAbs (addr : Addr)
  /-- `ROR $hhll,X`, opcode 0x7E (R213). -/
  | rorAbx (addr : Addr)
  -- Branches, jumps and subroutines (spec/45_branch_jump.md)
  /-- `BCC $tttt`, opcode 0x90 (R221). -/
  | bcc (r : Byte)
  /-- `BCS $tttt`, opcode 0xB0 (R222). -/
  | bcs (r : Byte)
  /-- `BEQ $tttt`, opcode 0xF0 (R223). -/
  | beq (r : Byte)
  /-- `BMI $tttt`, opcode 0x30 (R224). -/
  | bmi (r : Byte)
  /-- `BNE $tttt`, opcode 0xD0 (R225). -/
  | bne (r : Byte)
  /-- `BPL $tttt`, opcode 0x10 (R226). -/
  | bpl (r : Byte)
  /-- `BVC $tttt`, opcode 0x50 (R227). -/
  | bvc (r : Byte)
  /-- `BVS $tttt`, opcode 0x70 (R228). -/
  | bvs (r : Byte)
  /-- `JMP $hhll`, opcode 0x4C (R229). -/
  | jmpAbs (addr : Addr)
  /-- `JMP ($hhll)`, opcode 0x6C (R229). -/
  | jmpInd (ptr : Addr)
  /-- `JSR $hhll`, opcode 0x20 (R230). -/
  | jsr (addr : Addr)
  /-- `RTS`, opcode 0x60 (R231). -/
  | rts
  -- Stack, status-flag and system instructions (spec/46_stack_status_system.md)
  /-- `PHA`, opcode 0x48 (R240). -/
  | pha
  /-- `PHP`, opcode 0x08 (R241). -/
  | php
  /-- `PLA`, opcode 0x68 (R242). -/
  | pla
  /-- `PLP`, opcode 0x28 (R243). -/
  | plp
  /-- `CLC`, opcode 0x18 (R244). -/
  | clc
  /-- `CLD`, opcode 0xD8 (R245). -/
  | cld
  /-- `CLI`, opcode 0x58 (R246). -/
  | cli
  /-- `CLV`, opcode 0xB8 (R247). -/
  | clv
  /-- `SEC`, opcode 0x38 (R248). -/
  | sec
  /-- `SED`, opcode 0xF8 (R249). -/
  | sed
  /-- `SEI`, opcode 0x78 (R250). -/
  | sei
  /-- `NOP`, opcode 0xEA (R251). -/
  | nop
  /-- `BRK`, opcode 0x00 (R252). -/
  | brk
  /-- `RTI`, opcode 0x40 (R253). -/
  | rti
  /-- One of the 105 opcodes without a documented instruction (R104, R254). -/
  | illegal (opcode : Byte)
  deriving DecidableEq, Repr

end Sys2Proof
end

