-- ==== Sys2Proof/WellFormed.lean ====
section
/-! DEFINITION. Which terms of `Instr` stand for an instruction of the decode table. Every operand value of
a legal instruction is legal (spec/30_encoding.md R105), so the one check is that `illegal` carries one of the 105
opcodes of R104. -/

namespace Sys2Proof

/-- The 105 opcodes without a documented instruction, in the order of R104, one line for each high nibble. -/
def illegalOpcodes : List Byte :=
  [0x02#8, 0x03#8, 0x04#8, 0x07#8, 0x0B#8, 0x0C#8, 0x0F#8] ++
  [0x12#8, 0x13#8, 0x14#8, 0x17#8, 0x1A#8, 0x1B#8, 0x1C#8, 0x1F#8] ++
  [0x22#8, 0x23#8, 0x27#8, 0x2B#8, 0x2F#8] ++
  [0x32#8, 0x33#8, 0x34#8, 0x37#8, 0x3A#8, 0x3B#8, 0x3C#8, 0x3F#8] ++
  [0x42#8, 0x43#8, 0x44#8, 0x47#8, 0x4B#8, 0x4F#8] ++
  [0x52#8, 0x53#8, 0x54#8, 0x57#8, 0x5A#8, 0x5B#8, 0x5C#8, 0x5F#8] ++
  [0x62#8, 0x63#8, 0x64#8, 0x67#8, 0x6B#8, 0x6F#8] ++
  [0x72#8, 0x73#8, 0x74#8, 0x77#8, 0x7A#8, 0x7B#8, 0x7C#8, 0x7F#8] ++
  [0x80#8, 0x82#8, 0x83#8, 0x87#8, 0x89#8, 0x8B#8, 0x8F#8] ++
  [0x92#8, 0x93#8, 0x97#8, 0x9B#8, 0x9C#8, 0x9E#8, 0x9F#8] ++
  [0xA3#8, 0xA7#8, 0xAB#8, 0xAF#8] ++
  [0xB2#8, 0xB3#8, 0xB7#8, 0xBB#8, 0xBF#8] ++
  [0xC2#8, 0xC3#8, 0xC7#8, 0xCB#8, 0xCF#8] ++
  [0xD2#8, 0xD3#8, 0xD4#8, 0xD7#8, 0xDA#8, 0xDB#8, 0xDC#8, 0xDF#8] ++
  [0xE2#8, 0xE3#8, 0xE7#8, 0xEB#8, 0xEF#8] ++
  [0xF2#8, 0xF3#8, 0xF4#8, 0xF7#8, 0xFA#8, 0xFB#8, 0xFC#8, 0xFF#8]

/-- `o` is tagged ILLEGAL in the decode table (R104). -/
def isIllegalOpcode (o : Byte) : Bool := illegalOpcodes.contains o

/-- `i` is an instruction of the decode table. -/
def Instr.wf (i : Instr) : Bool :=
  match i with
  | .illegal o => isIllegalOpcode o
  | .ldaImm _ | .ldaZp _ | .ldaZpx _ | .ldaAbs _ | .ldaAbx _ | .ldaAby _ | .ldaIzx _ | .ldaIzy _ => true
  | .ldxImm _ | .ldxZp _ | .ldxZpy _ | .ldxAbs _ | .ldxAby _ => true
  | .ldyImm _ | .ldyZp _ | .ldyZpx _ | .ldyAbs _ | .ldyAbx _ => true
  | .staZp _ | .staZpx _ | .staAbs _ | .staAbx _ | .staAby _ | .staIzx _ | .staIzy _ => true
  | .stxZp _ | .stxZpy _ | .stxAbs _ => true
  | .styZp _ | .styZpx _ | .styAbs _ => true
  | .tax => true
  | .tay => true
  | .tsx => true
  | .txa => true
  | .txs => true
  | .tya => true
  | .adcImm _ | .adcZp _ | .adcZpx _ | .adcAbs _ | .adcAbx _ | .adcAby _ | .adcIzx _ | .adcIzy _ => true
  | .sbcImm _ | .sbcZp _ | .sbcZpx _ | .sbcAbs _ | .sbcAbx _ | .sbcAby _ | .sbcIzx _ | .sbcIzy _ => true
  | .andImm _ | .andZp _ | .andZpx _ | .andAbs _ | .andAbx _ | .andAby _ | .andIzx _ | .andIzy _ => true
  | .oraImm _ | .oraZp _ | .oraZpx _ | .oraAbs _ | .oraAbx _ | .oraAby _ | .oraIzx _ | .oraIzy _ => true
  | .eorImm _ | .eorZp _ | .eorZpx _ | .eorAbs _ | .eorAbx _ | .eorAby _ | .eorIzx _ | .eorIzy _ => true
  | .bitZp _ | .bitAbs _ => true
  | .cmpImm _ | .cmpZp _ | .cmpZpx _ | .cmpAbs _ | .cmpAbx _ | .cmpAby _ | .cmpIzx _ | .cmpIzy _ => true
  | .cpxImm _ | .cpxZp _ | .cpxAbs _ => true
  | .cpyImm _ | .cpyZp _ | .cpyAbs _ => true
  | .incZp _ | .incZpx _ | .incAbs _ | .incAbx _ => true
  | .decZp _ | .decZpx _ | .decAbs _ | .decAbx _ => true
  | .inx => true
  | .iny => true
  | .dex => true
  | .dey => true
  | .aslAcc | .aslZp _ | .aslZpx _ | .aslAbs _ | .aslAbx _ => true
  | .lsrAcc | .lsrZp _ | .lsrZpx _ | .lsrAbs _ | .lsrAbx _ => true
  | .rolAcc | .rolZp _ | .rolZpx _ | .rolAbs _ | .rolAbx _ => true
  | .rorAcc | .rorZp _ | .rorZpx _ | .rorAbs _ | .rorAbx _ => true
  | .bcc _ => true
  | .bcs _ => true
  | .beq _ => true
  | .bmi _ => true
  | .bne _ => true
  | .bpl _ => true
  | .bvc _ => true
  | .bvs _ => true
  | .jmpAbs _ | .jmpInd _ => true
  | .jsr _ => true
  | .rts => true
  | .pha => true
  | .php => true
  | .pla => true
  | .plp => true
  | .clc => true
  | .cld => true
  | .cli => true
  | .clv => true
  | .sec => true
  | .sed => true
  | .sei => true
  | .nop => true
  | .brk => true
  | .rti => true

end Sys2Proof
end

