-- ==== Sys2Proof/Decode.lean ====
section
/-! DEFINITION. Decoding (spec/30_encoding.md R100–R106), total on any bytes: the opcode byte picks a row of the
256-entry decode table, the row's addressing mode says how many operand bytes follow, and the row builds the
instruction from them. After it the encoder, written from the same table, and the host's view of a table
word. -/

namespace Sys2Proof

/-- `hi8(w) = w[15:8]` (R9). -/
def hi8 (w : Addr) : Byte := w.extractLsb' 8 8

/-- `lo8(w) = w[7:0]` (R9). -/
def lo8 (w : Addr) : Byte := w.extractLsb' 0 8

/-- `hi:lo`, the 16-bit concatenation (R9). -/
def hiLo (hi lo : Byte) : Addr := hi ++ lo

/-- `zext_16(v)` (R9). -/
def zext16 (v : Byte) : Addr := v.zeroExtend 16

/-- `sext_16(v)`: sign extension of a byte (R9). -/
def sext16 (v : Byte) : Addr := v.signExtend 16

/-- The twelve addressing modes, under the tags of R101. -/
inductive Mode where
  | imp | imm | zp | zpx | zpy | abs | abx | aby | ind | izx | izy | rel
  deriving DecidableEq, Repr

/-- How many operand bytes follow the opcode byte (R101). -/
def Mode.operandBytes (m : Mode) : Nat :=
  match m with
  | .imp => 0
  | .imm | .zp | .zpx | .zpy | .izx | .izy | .rel => 1
  | .abs | .abx | .aby | .ind => 2

/-- An entry of the decode table: its mode, its base cycles and its operation (R102). The operation is given as the
instruction that the operand bytes 1 and 2 make; a byte the mode does not have is ignored. -/
structure Row where
  mode : Mode
  base : Nat
  build : Byte → Byte → Instr

/-- A row of mode IMP. -/
def Row.implied (base : Nat) (i : Instr) : Row := ⟨.imp, base, fun _ _ => i⟩

/-- A row with one operand byte. -/
def Row.byte (mode : Mode) (base : Nat) (f : Byte → Instr) : Row := ⟨mode, base, fun b _ => f b⟩

/-- A row with a 16-bit operand, its low byte first (R68, R101). -/
def Row.word (mode : Mode) (base : Nat) (f : Addr → Instr) : Row := ⟨mode, base, fun l h => f (hiLo h l)⟩

/-- The entry of an opcode without a documented instruction: `(ILLEGAL, IMP, 2)` (R104). -/
def Row.illegal (o : Byte) : Row := Row.implied 2 (.illegal o)

/-- The entries 0x00 to 0x0F of the decode table (R102), by the opcode's low nibble. -/
def row0 (o : Byte) (lo : Nat) : Row :=
  match lo with
  | 0x0 => .implied 7 .brk
  | 0x1 => .byte .izx 6 .oraIzx
  | 0x5 => .byte .zp 3 .oraZp
  | 0x6 => .byte .zp 5 .aslZp
  | 0x8 => .implied 3 .php
  | 0x9 => .byte .imm 2 .oraImm
  | 0xA => .implied 2 .aslAcc
  | 0xD => .word .abs 4 .oraAbs
  | 0xE => .word .abs 6 .aslAbs
  | _ => .illegal o

/-- The entries 0x10 to 0x1F of the decode table (R102), by the opcode's low nibble. -/
def row1 (o : Byte) (lo : Nat) : Row :=
  match lo with
  | 0x0 => .byte .rel 2 .bpl
  | 0x1 => .byte .izy 5 .oraIzy
  | 0x5 => .byte .zpx 4 .oraZpx
  | 0x6 => .byte .zpx 6 .aslZpx
  | 0x8 => .implied 2 .clc
  | 0x9 => .word .aby 4 .oraAby
  | 0xD => .word .abx 4 .oraAbx
  | 0xE => .word .abx 7 .aslAbx
  | _ => .illegal o

/-- The entries 0x20 to 0x2F of the decode table (R102), by the opcode's low nibble. -/
def row2 (o : Byte) (lo : Nat) : Row :=
  match lo with
  | 0x0 => .word .abs 6 .jsr
  | 0x1 => .byte .izx 6 .andIzx
  | 0x4 => .byte .zp 3 .bitZp
  | 0x5 => .byte .zp 3 .andZp
  | 0x6 => .byte .zp 5 .rolZp
  | 0x8 => .implied 4 .plp
  | 0x9 => .byte .imm 2 .andImm
  | 0xA => .implied 2 .rolAcc
  | 0xC => .word .abs 4 .bitAbs
  | 0xD => .word .abs 4 .andAbs
  | 0xE => .word .abs 6 .rolAbs
  | _ => .illegal o

/-- The entries 0x30 to 0x3F of the decode table (R102), by the opcode's low nibble. -/
def row3 (o : Byte) (lo : Nat) : Row :=
  match lo with
  | 0x0 => .byte .rel 2 .bmi
  | 0x1 => .byte .izy 5 .andIzy
  | 0x5 => .byte .zpx 4 .andZpx
  | 0x6 => .byte .zpx 6 .rolZpx
  | 0x8 => .implied 2 .sec
  | 0x9 => .word .aby 4 .andAby
  | 0xD => .word .abx 4 .andAbx
  | 0xE => .word .abx 7 .rolAbx
  | _ => .illegal o

/-- The entries 0x40 to 0x4F of the decode table (R102), by the opcode's low nibble. -/
def row4 (o : Byte) (lo : Nat) : Row :=
  match lo with
  | 0x0 => .implied 6 .rti
  | 0x1 => .byte .izx 6 .eorIzx
  | 0x5 => .byte .zp 3 .eorZp
  | 0x6 => .byte .zp 5 .lsrZp
  | 0x8 => .implied 3 .pha
  | 0x9 => .byte .imm 2 .eorImm
  | 0xA => .implied 2 .lsrAcc
  | 0xC => .word .abs 3 .jmpAbs
  | 0xD => .word .abs 4 .eorAbs
  | 0xE => .word .abs 6 .lsrAbs
  | _ => .illegal o

/-- The entries 0x50 to 0x5F of the decode table (R102), by the opcode's low nibble. -/
def row5 (o : Byte) (lo : Nat) : Row :=
  match lo with
  | 0x0 => .byte .rel 2 .bvc
  | 0x1 => .byte .izy 5 .eorIzy
  | 0x5 => .byte .zpx 4 .eorZpx
  | 0x6 => .byte .zpx 6 .lsrZpx
  | 0x8 => .implied 2 .cli
  | 0x9 => .word .aby 4 .eorAby
  | 0xD => .word .abx 4 .eorAbx
  | 0xE => .word .abx 7 .lsrAbx
  | _ => .illegal o

/-- The entries 0x60 to 0x6F of the decode table (R102), by the opcode's low nibble. -/
def row6 (o : Byte) (lo : Nat) : Row :=
  match lo with
  | 0x0 => .implied 6 .rts
  | 0x1 => .byte .izx 6 .adcIzx
  | 0x5 => .byte .zp 3 .adcZp
  | 0x6 => .byte .zp 5 .rorZp
  | 0x8 => .implied 4 .pla
  | 0x9 => .byte .imm 2 .adcImm
  | 0xA => .implied 2 .rorAcc
  | 0xC => .word .ind 5 .jmpInd
  | 0xD => .word .abs 4 .adcAbs
  | 0xE => .word .abs 6 .rorAbs
  | _ => .illegal o

/-- The entries 0x70 to 0x7F of the decode table (R102), by the opcode's low nibble. -/
def row7 (o : Byte) (lo : Nat) : Row :=
  match lo with
  | 0x0 => .byte .rel 2 .bvs
  | 0x1 => .byte .izy 5 .adcIzy
  | 0x5 => .byte .zpx 4 .adcZpx
  | 0x6 => .byte .zpx 6 .rorZpx
  | 0x8 => .implied 2 .sei
  | 0x9 => .word .aby 4 .adcAby
  | 0xD => .word .abx 4 .adcAbx
  | 0xE => .word .abx 7 .rorAbx
  | _ => .illegal o

/-- The entries 0x80 to 0x8F of the decode table (R102), by the opcode's low nibble. -/
def row8 (o : Byte) (lo : Nat) : Row :=
  match lo with
  | 0x1 => .byte .izx 6 .staIzx
  | 0x4 => .byte .zp 3 .styZp
  | 0x5 => .byte .zp 3 .staZp
  | 0x6 => .byte .zp 3 .stxZp
  | 0x8 => .implied 2 .dey
  | 0xA => .implied 2 .txa
  | 0xC => .word .abs 4 .styAbs
  | 0xD => .word .abs 4 .staAbs
  | 0xE => .word .abs 4 .stxAbs
  | _ => .illegal o

/-- The entries 0x90 to 0x9F of the decode table (R102), by the opcode's low nibble. -/
def row9 (o : Byte) (lo : Nat) : Row :=
  match lo with
  | 0x0 => .byte .rel 2 .bcc
  | 0x1 => .byte .izy 6 .staIzy
  | 0x4 => .byte .zpx 4 .styZpx
  | 0x5 => .byte .zpx 4 .staZpx
  | 0x6 => .byte .zpy 4 .stxZpy
  | 0x8 => .implied 2 .tya
  | 0x9 => .word .aby 5 .staAby
  | 0xA => .implied 2 .txs
  | 0xD => .word .abx 5 .staAbx
  | _ => .illegal o

/-- The entries 0xA0 to 0xAF of the decode table (R102), by the opcode's low nibble. -/
def rowA (o : Byte) (lo : Nat) : Row :=
  match lo with
  | 0x0 => .byte .imm 2 .ldyImm
  | 0x1 => .byte .izx 6 .ldaIzx
  | 0x2 => .byte .imm 2 .ldxImm
  | 0x4 => .byte .zp 3 .ldyZp
  | 0x5 => .byte .zp 3 .ldaZp
  | 0x6 => .byte .zp 3 .ldxZp
  | 0x8 => .implied 2 .tay
  | 0x9 => .byte .imm 2 .ldaImm
  | 0xA => .implied 2 .tax
  | 0xC => .word .abs 4 .ldyAbs
  | 0xD => .word .abs 4 .ldaAbs
  | 0xE => .word .abs 4 .ldxAbs
  | _ => .illegal o

/-- The entries 0xB0 to 0xBF of the decode table (R102), by the opcode's low nibble. -/
def rowB (o : Byte) (lo : Nat) : Row :=
  match lo with
  | 0x0 => .byte .rel 2 .bcs
  | 0x1 => .byte .izy 5 .ldaIzy
  | 0x4 => .byte .zpx 4 .ldyZpx
  | 0x5 => .byte .zpx 4 .ldaZpx
  | 0x6 => .byte .zpy 4 .ldxZpy
  | 0x8 => .implied 2 .clv
  | 0x9 => .word .aby 4 .ldaAby
  | 0xA => .implied 2 .tsx
  | 0xC => .word .abx 4 .ldyAbx
  | 0xD => .word .abx 4 .ldaAbx
  | 0xE => .word .aby 4 .ldxAby
  | _ => .illegal o

/-- The entries 0xC0 to 0xCF of the decode table (R102), by the opcode's low nibble. -/
def rowC (o : Byte) (lo : Nat) : Row :=
  match lo with
  | 0x0 => .byte .imm 2 .cpyImm
  | 0x1 => .byte .izx 6 .cmpIzx
  | 0x4 => .byte .zp 3 .cpyZp
  | 0x5 => .byte .zp 3 .cmpZp
  | 0x6 => .byte .zp 5 .decZp
  | 0x8 => .implied 2 .iny
  | 0x9 => .byte .imm 2 .cmpImm
  | 0xA => .implied 2 .dex
  | 0xC => .word .abs 4 .cpyAbs
  | 0xD => .word .abs 4 .cmpAbs
  | 0xE => .word .abs 6 .decAbs
  | _ => .illegal o

/-- The entries 0xD0 to 0xDF of the decode table (R102), by the opcode's low nibble. -/
def rowD (o : Byte) (lo : Nat) : Row :=
  match lo with
  | 0x0 => .byte .rel 2 .bne
  | 0x1 => .byte .izy 5 .cmpIzy
  | 0x5 => .byte .zpx 4 .cmpZpx
  | 0x6 => .byte .zpx 6 .decZpx
  | 0x8 => .implied 2 .cld
  | 0x9 => .word .aby 4 .cmpAby
  | 0xD => .word .abx 4 .cmpAbx
  | 0xE => .word .abx 7 .decAbx
  | _ => .illegal o

/-- The entries 0xE0 to 0xEF of the decode table (R102), by the opcode's low nibble. -/
def rowE (o : Byte) (lo : Nat) : Row :=
  match lo with
  | 0x0 => .byte .imm 2 .cpxImm
  | 0x1 => .byte .izx 6 .sbcIzx
  | 0x4 => .byte .zp 3 .cpxZp
  | 0x5 => .byte .zp 3 .sbcZp
  | 0x6 => .byte .zp 5 .incZp
  | 0x8 => .implied 2 .inx
  | 0x9 => .byte .imm 2 .sbcImm
  | 0xA => .implied 2 .nop
  | 0xC => .word .abs 4 .cpxAbs
  | 0xD => .word .abs 4 .sbcAbs
  | 0xE => .word .abs 6 .incAbs
  | _ => .illegal o

/-- The entries 0xF0 to 0xFF of the decode table (R102), by the opcode's low nibble. -/
def rowF (o : Byte) (lo : Nat) : Row :=
  match lo with
  | 0x0 => .byte .rel 2 .beq
  | 0x1 => .byte .izy 5 .sbcIzy
  | 0x5 => .byte .zpx 4 .sbcZpx
  | 0x6 => .byte .zpx 6 .incZpx
  | 0x8 => .implied 2 .sed
  | 0x9 => .word .aby 4 .sbcAby
  | 0xD => .word .abx 4 .sbcAbx
  | 0xE => .word .abx 7 .incAbx
  | _ => .illegal o

/-- The 256-entry decode table (R102), by the opcode's high nibble. It is total. -/
def opcodeRow (o : Byte) : Row :=
  let lo := o.toNat % 16
  match o.toNat / 16 with
  | 0x0 => row0 o lo
  | 0x1 => row1 o lo
  | 0x2 => row2 o lo
  | 0x3 => row3 o lo
  | 0x4 => row4 o lo
  | 0x5 => row5 o lo
  | 0x6 => row6 o lo
  | 0x7 => row7 o lo
  | 0x8 => row8 o lo
  | 0x9 => row9 o lo
  | 0xA => rowA o lo
  | 0xB => rowB o lo
  | 0xC => rowC o lo
  | 0xD => rowD o lo
  | 0xE => rowE o lo
  | _ => rowF o lo

/-- Why a list of bytes gives no instruction: there is no opcode byte, or an operand byte of the named
opcode is missing. No opcode byte is rejected: the table is total (R102), and an ILLEGAL entry decodes to the
instruction `illegal`. -/
inductive DecodeError where
  | noOpcode
  | missingOperand (opcode : Byte)
  deriving DecidableEq, Repr

/-- The instruction at the front of a list of bytes, and the bytes after it (R100). -/
def decode (bytes : List Byte) : Except DecodeError (Instr × List Byte) :=
  match bytes with
  | [] => .error .noOpcode
  | o :: rest =>
    let row := opcodeRow o
    match row.mode.operandBytes, rest with
    | 0, rest => .ok (row.build 0#8 0#8, rest)
    | 1, b :: rest => .ok (row.build b 0#8, rest)
    | 2, b :: c :: rest => .ok (row.build b c, rest)
    | _, _ => .error (.missingOperand o)

/-- The bytes of an instruction: its opcode, then its operand bytes, a 16-bit operand low byte first (R100,
R101). -/
def encode (i : Instr) : List Byte :=
  match i with
  | .ldaImm n => [0xA9#8, n]
  | .ldaZp z => [0xA5#8, z]
  | .ldaZpx z => [0xB5#8, z]
  | .ldaAbs addr => [0xAD#8, lo8 addr, hi8 addr]
  | .ldaAbx addr => [0xBD#8, lo8 addr, hi8 addr]
  | .ldaAby addr => [0xB9#8, lo8 addr, hi8 addr]
  | .ldaIzx z => [0xA1#8, z]
  | .ldaIzy z => [0xB1#8, z]
  | .ldxImm n => [0xA2#8, n]
  | .ldxZp z => [0xA6#8, z]
  | .ldxZpy z => [0xB6#8, z]
  | .ldxAbs addr => [0xAE#8, lo8 addr, hi8 addr]
  | .ldxAby addr => [0xBE#8, lo8 addr, hi8 addr]
  | .ldyImm n => [0xA0#8, n]
  | .ldyZp z => [0xA4#8, z]
  | .ldyZpx z => [0xB4#8, z]
  | .ldyAbs addr => [0xAC#8, lo8 addr, hi8 addr]
  | .ldyAbx addr => [0xBC#8, lo8 addr, hi8 addr]
  | .staZp z => [0x85#8, z]
  | .staZpx z => [0x95#8, z]
  | .staAbs addr => [0x8D#8, lo8 addr, hi8 addr]
  | .staAbx addr => [0x9D#8, lo8 addr, hi8 addr]
  | .staAby addr => [0x99#8, lo8 addr, hi8 addr]
  | .staIzx z => [0x81#8, z]
  | .staIzy z => [0x91#8, z]
  | .stxZp z => [0x86#8, z]
  | .stxZpy z => [0x96#8, z]
  | .stxAbs addr => [0x8E#8, lo8 addr, hi8 addr]
  | .styZp z => [0x84#8, z]
  | .styZpx z => [0x94#8, z]
  | .styAbs addr => [0x8C#8, lo8 addr, hi8 addr]
  | .tax => [0xAA#8]
  | .tay => [0xA8#8]
  | .tsx => [0xBA#8]
  | .txa => [0x8A#8]
  | .txs => [0x9A#8]
  | .tya => [0x98#8]
  | .adcImm n => [0x69#8, n]
  | .adcZp z => [0x65#8, z]
  | .adcZpx z => [0x75#8, z]
  | .adcAbs addr => [0x6D#8, lo8 addr, hi8 addr]
  | .adcAbx addr => [0x7D#8, lo8 addr, hi8 addr]
  | .adcAby addr => [0x79#8, lo8 addr, hi8 addr]
  | .adcIzx z => [0x61#8, z]
  | .adcIzy z => [0x71#8, z]
  | .sbcImm n => [0xE9#8, n]
  | .sbcZp z => [0xE5#8, z]
  | .sbcZpx z => [0xF5#8, z]
  | .sbcAbs addr => [0xED#8, lo8 addr, hi8 addr]
  | .sbcAbx addr => [0xFD#8, lo8 addr, hi8 addr]
  | .sbcAby addr => [0xF9#8, lo8 addr, hi8 addr]
  | .sbcIzx z => [0xE1#8, z]
  | .sbcIzy z => [0xF1#8, z]
  | .andImm n => [0x29#8, n]
  | .andZp z => [0x25#8, z]
  | .andZpx z => [0x35#8, z]
  | .andAbs addr => [0x2D#8, lo8 addr, hi8 addr]
  | .andAbx addr => [0x3D#8, lo8 addr, hi8 addr]
  | .andAby addr => [0x39#8, lo8 addr, hi8 addr]
  | .andIzx z => [0x21#8, z]
  | .andIzy z => [0x31#8, z]
  | .oraImm n => [0x09#8, n]
  | .oraZp z => [0x05#8, z]
  | .oraZpx z => [0x15#8, z]
  | .oraAbs addr => [0x0D#8, lo8 addr, hi8 addr]
  | .oraAbx addr => [0x1D#8, lo8 addr, hi8 addr]
  | .oraAby addr => [0x19#8, lo8 addr, hi8 addr]
  | .oraIzx z => [0x01#8, z]
  | .oraIzy z => [0x11#8, z]
  | .eorImm n => [0x49#8, n]
  | .eorZp z => [0x45#8, z]
  | .eorZpx z => [0x55#8, z]
  | .eorAbs addr => [0x4D#8, lo8 addr, hi8 addr]
  | .eorAbx addr => [0x5D#8, lo8 addr, hi8 addr]
  | .eorAby addr => [0x59#8, lo8 addr, hi8 addr]
  | .eorIzx z => [0x41#8, z]
  | .eorIzy z => [0x51#8, z]
  | .bitZp z => [0x24#8, z]
  | .bitAbs addr => [0x2C#8, lo8 addr, hi8 addr]
  | .cmpImm n => [0xC9#8, n]
  | .cmpZp z => [0xC5#8, z]
  | .cmpZpx z => [0xD5#8, z]
  | .cmpAbs addr => [0xCD#8, lo8 addr, hi8 addr]
  | .cmpAbx addr => [0xDD#8, lo8 addr, hi8 addr]
  | .cmpAby addr => [0xD9#8, lo8 addr, hi8 addr]
  | .cmpIzx z => [0xC1#8, z]
  | .cmpIzy z => [0xD1#8, z]
  | .cpxImm n => [0xE0#8, n]
  | .cpxZp z => [0xE4#8, z]
  | .cpxAbs addr => [0xEC#8, lo8 addr, hi8 addr]
  | .cpyImm n => [0xC0#8, n]
  | .cpyZp z => [0xC4#8, z]
  | .cpyAbs addr => [0xCC#8, lo8 addr, hi8 addr]
  | .incZp z => [0xE6#8, z]
  | .incZpx z => [0xF6#8, z]
  | .incAbs addr => [0xEE#8, lo8 addr, hi8 addr]
  | .incAbx addr => [0xFE#8, lo8 addr, hi8 addr]
  | .decZp z => [0xC6#8, z]
  | .decZpx z => [0xD6#8, z]
  | .decAbs addr => [0xCE#8, lo8 addr, hi8 addr]
  | .decAbx addr => [0xDE#8, lo8 addr, hi8 addr]
  | .inx => [0xE8#8]
  | .iny => [0xC8#8]
  | .dex => [0xCA#8]
  | .dey => [0x88#8]
  | .aslAcc => [0x0A#8]
  | .aslZp z => [0x06#8, z]
  | .aslZpx z => [0x16#8, z]
  | .aslAbs addr => [0x0E#8, lo8 addr, hi8 addr]
  | .aslAbx addr => [0x1E#8, lo8 addr, hi8 addr]
  | .lsrAcc => [0x4A#8]
  | .lsrZp z => [0x46#8, z]
  | .lsrZpx z => [0x56#8, z]
  | .lsrAbs addr => [0x4E#8, lo8 addr, hi8 addr]
  | .lsrAbx addr => [0x5E#8, lo8 addr, hi8 addr]
  | .rolAcc => [0x2A#8]
  | .rolZp z => [0x26#8, z]
  | .rolZpx z => [0x36#8, z]
  | .rolAbs addr => [0x2E#8, lo8 addr, hi8 addr]
  | .rolAbx addr => [0x3E#8, lo8 addr, hi8 addr]
  | .rorAcc => [0x6A#8]
  | .rorZp z => [0x66#8, z]
  | .rorZpx z => [0x76#8, z]
  | .rorAbs addr => [0x6E#8, lo8 addr, hi8 addr]
  | .rorAbx addr => [0x7E#8, lo8 addr, hi8 addr]
  | .bcc r => [0x90#8, r]
  | .bcs r => [0xB0#8, r]
  | .beq r => [0xF0#8, r]
  | .bmi r => [0x30#8, r]
  | .bne r => [0xD0#8, r]
  | .bpl r => [0x10#8, r]
  | .bvc r => [0x50#8, r]
  | .bvs r => [0x70#8, r]
  | .jmpAbs addr => [0x4C#8, lo8 addr, hi8 addr]
  | .jmpInd ptr => [0x6C#8, lo8 ptr, hi8 ptr]
  | .jsr addr => [0x20#8, lo8 addr, hi8 addr]
  | .rts => [0x60#8]
  | .pha => [0x48#8]
  | .php => [0x08#8]
  | .pla => [0x68#8]
  | .plp => [0x28#8]
  | .clc => [0x18#8]
  | .cld => [0xD8#8]
  | .cli => [0x58#8]
  | .clv => [0xB8#8]
  | .sec => [0x38#8]
  | .sed => [0xF8#8]
  | .sei => [0x78#8]
  | .nop => [0xEA#8]
  | .brk => [0x00#8]
  | .rti => [0x40#8]
  | .illegal o => [o]

/-- The base cycles of an instruction: those of its opcode's entry (R102). -/
def Instr.baseCycles (i : Instr) : Nat := (opcodeRow ((encode i).headD 0#8)).base

/-- The three bytes of the word `w` of `nbits` bits, first byte first. Every bit above `nbits` is 0. -/
def tableWordBytes (nbits w : Nat) : List Byte :=
  let v := w % 2 ^ nbits
  [BitVec.ofNat 8 v, BitVec.ofNat 8 (v / 256), BitVec.ofNat 8 (v / 65536)]

/-- The instruction the decoder reads from a word numbered as spec/opcode_table.json numbers it: bit 0 is the least
significant bit of the opcode byte, bits 15..8 are operand byte 1, and bits 23..16 operand byte 2. -/
def decodeTableWord (nbits w : Nat) : Option Instr :=
  match decode (tableWordBytes nbits w) with
  | .ok (i, _) => some i
  | .error _ => none

end Sys2Proof
end

