-- ==== Sys2Proof/Config.lean ====
section
/-! DEFINITION. What an implementation fixes: the sizes of spec/00_scope.md R6, the named parameters of
R7 that are fixed for one machine, and the free values, which the spec leaves open and nothing in Lean can
evaluate. -/

namespace Sys2Proof

/-- `P_PULSE_ORDER` (R7, R315): the order of the one CPU pulse and the three PPU pulses of
`advance_one_cpu_cycle`. -/
inductive PulseOrder where
  | ppuFirst
  | cpuFirst
  deriving DecidableEq, Repr

/-- `P_PPU_UNIMPL` (R7, R273): what an access to PPU register offset 3, 4 or 5 does. -/
inductive PpuUnimpl where
  | fault
  | ignore
  deriving DecidableEq, Repr

/-- The parameters of R7 that are fixed for one machine. They stand in the state as plain data, so that a
theorem over every state holds for every choice of them. -/
structure Params where
  /-- `P_PULSE_ORDER`. -/
  pulseOrder : PulseOrder
  /-- `P_PPU_UNIMPL`. -/
  ppuUnimpl : PpuUnimpl
  /-- `P_RESET_PUSH`: whether reset also writes three bytes to the stack page. -/
  resetPush : Bool
  deriving DecidableEq, Repr

namespace Config

/-- The defaults that R7 suggests: `ppu_first`, `fault`, `false`. -/
def defaultParams : Params := { pulseOrder := .ppuFirst, ppuUnimpl := .fault, resetPush := false }

/-- CPU RAM, and also the PPU's nametable RAM: 2048 bytes each (R6). -/
abbrev ramSize : Nat := 2048
abbrev vramSize : Nat := 2048
/-- OAM: 256 bytes. -/
abbrev oamSize : Nat := 256
/-- Palette RAM: 32 bytes. -/
abbrev paletteSize : Nat := 32
/-- A program-ROM unit: 16384 bytes (R30). -/
abbrev prgUnit : Nat := 16384
/-- A graphics-ROM unit: 8192 bytes (R30). -/
abbrev chrUnit : Nat := 8192
/-- The iNES header: 16 bytes. -/
abbrev headerSize : Nat := 16
/-- A trainer: 512 bytes (R81). -/
abbrev trainerSize : Nat := 512

/-- FREE VALUE (log entry 6). With `P_RESET_PUSH` the offset in page 1 of the n-th byte that reset writes
(R331: "three bytes of page 0x0100 at unspecified offsets receive unspecified values"). -/
opaque resetPushOffset : Nat → Byte

/-- FREE VALUE (log entry 6). With `P_RESET_PUSH` the value of the n-th byte that reset writes. -/
opaque resetPushByte : Nat → Byte

/-- FREE VALUE (log entry 7). What stands in the n-th 8-bit CPU register between `construct` and the first
`reset`, when the spec says the register is "unspecified (not held)" (R39). -/
opaque unheldByte : Nat → Byte

/-- FREE VALUE (log entry 7). What stands in PC between `construct` and the first `reset` (R39). -/
opaque unheldPc : Nat → Addr

/-- FREE VALUE (log entry 7). What stands in the cycle counter between `construct` and the first `reset`
(R39). -/
opaque unheldCycles : Nat → Nat

end Config

end Sys2Proof
end

