-- ==== Sys2Proof/Machine/State.lean ====
section
/-! DEFINITION. The state of the machine as plain data (spec/10_state.md), the reasons a step can stop, the
update of each field, and the machine right after reset. -/

namespace Sys2Proof.Machine

/-- Bytes by address, sparse: a list of (address, byte) pairs in one canonical form (`Memory.wf` in
Machine/Memory.lean). RAM, VRAM, OAM, palette RAM and the two ROM buffers are each one of these. -/
abbrev Memory := List Host.Cell

/-- Which nametable fold the cartridge asks for (R30, R83). -/
inductive Mirroring where
  | horizontal
  | vertical
  deriving DecidableEq, Repr

/-- `CartridgeImage` (R30): the header fields and the two ROM buffers. No rule writes it (R30: "Built once at
load; never mutated"). -/
structure Cartridge where
  /-- Header byte 4: `prg` holds 16384 × `prgUnits` bytes. -/
  prgUnits : Byte
  /-- Header byte 5: `chr` holds 8192 × `chrUnits` bytes. -/
  chrUnits : Byte
  /-- The mapper id (R80). -/
  mapper : Byte
  mirroring : Mirroring
  /-- Program ROM, by offset. -/
  prg : Memory
  /-- Graphics ROM, by offset. -/
  chr : Memory
  deriving DecidableEq, Repr

/-- The PPU's state (R31–R37). -/
structure Ppu where
  /-- Nametable RAM, 2048 bytes (R31). -/
  vram : Memory
  /-- Object-attribute memory, 256 bytes, reached by no rule (R31, R279). -/
  oam : Memory
  /-- Palette RAM, 32 bytes (R31). -/
  palette : Memory
  /-- Control, offset 0, write-only (R32): bit 2 is the increment mode, bit 7 the NMI enable. -/
  ctrl : Byte
  /-- Mask, offset 1, write-only (R33). -/
  mask : Byte
  /-- Status, offset 2, read-only (R34): bit 7 is vblank, bits 4:0 are not stored. -/
  status : Byte
  /-- The VRAM address register, whose value stays in 0x0000–0x3FFF (R35). -/
  vaddr : Addr
  /-- The write-toggle latch: false for the high byte next, true for the low byte next (R35). -/
  w : Bool
  /-- The read buffer of VRAM data (R36). -/
  rbuf : Byte
  /-- 0–261 (R37). -/
  scanline : Nat
  /-- 0–340 (R37). -/
  cycle : Nat
  /-- NMI-pending (R37, R280). -/
  nmiPending : Bool
  deriving DecidableEq, Repr

/-- `P_IRQ` (R7, R307): the level of the external IRQ line at the coming instruction boundaries, next first,
and the level it stays at after them. -/
structure IrqLine where
  levels : List Bool
  idle : Bool
  deriving DecidableEq, Repr

/-- An entry of the diagnostic log (R304). -/
inductive Diagnostic where
  | unmappedRead (addr : Addr)
  | unmappedWrite (addr : Addr) (v : Byte)
  deriving DecidableEq, Repr

/-- The fault record (R38, R300) with the info that R300 says is recorded; its numeric code is `Fault.code`. A fault is never cleared, and a
machine with a fault has no further step (R301), so `step` answers `Host.Outcome.fault` with it. Every constructor is
safe: the machine stops exactly where the spec halts it. -/
inductive Fault where
  /-- Raised by `execIllegal`: one of the 105 undocumented opcodes is executed (R254). The opcode, and its address. Safe. -/
  | illegalOpcode (opcode : Byte) (addr : Addr)
  /-- Raised by `memWrite` on 0x8000–0xFFFF (R62), with the CPU address, and by `ppuWrite` on 0x0000–0x1FFF (R275),
  with the PPU address. Safe. -/
  | romWrite (addr : Addr)
  /-- Raised by `ppuRegRead` on offsets 0, 1 and 6 (R272), with the CPU address. Safe. -/
  | readWriteOnly (addr : Addr)
  /-- Raised by `ppuRegWrite` on offset 2 (R272), with the CPU address. Safe. -/
  | writeReadOnly (addr : Addr)
  /-- Raised by `ppuRead` and `ppuWrite` on 0x3000–0x3EFF (R274, R275), with the PPU address. Safe. -/
  | ppuUnmapped (addr : Addr)
  /-- Raised by `ppuRegRead` and `ppuRegWrite` on offsets 3, 4 and 5 under `P_PPU_UNIMPL = fault` (R273): the offset,
  and whether the access was a write. Safe. -/
  | ppuUnimplemented (offset : Nat) (write : Bool)
  deriving DecidableEq, Repr

/-- Why a step has no meaning. -/
inductive Refusal where
  /-- An instruction that exec gives no meaning; no arm does so. Safe. -/
  | notModelled (mnemonic : String)
  /-- Raised by `cpuPulse` before the first `reset()`: "refuse NotReset" (R121, R302). Safe. -/
  | notReset
  deriving DecidableEq, Repr

/-- The state of the machine: the CPU (R20–R25, R27), the Bus-owned RAM (R29), the cartridge (R30), the PPU
(R31–R37), the IRQ line (R28), the fixed parameters (R7), the fault record (R38) and the diagnostic log (R304);
`freeCount` is the model's own. -/
structure State where
  /-- The accumulator (R20). -/
  a : Byte
  /-- Index X (R20). -/
  x : Byte
  /-- Index Y (R20). -/
  y : Byte
  /-- The stack pointer, an offset into page 0x0100 (R21). -/
  sp : Byte
  /-- The program counter (R22). -/
  pc : Addr
  /-- The status register: C Z I D B U V N in bits 0 to 7 (R23). -/
  p : Byte
  /-- The remaining-cycle counter (R25). -/
  cycles : Nat
  /-- The initialisation mark (R27). -/
  cpuReady : Bool
  /-- CPU RAM, 2048 bytes (R29). -/
  ram : Memory
  /-- The cartridge image (R30). -/
  cart : Cartridge
  /-- The PPU (R31–R37). -/
  ppu : Ppu
  /-- The IRQ line, `P_IRQ` (R28). -/
  irq : IrqLine
  /-- `P_PULSE_ORDER`, `P_PPU_UNIMPL` and `P_RESET_PUSH` (R7). -/
  params : Params
  /-- The machine's fault record (R38). -/
  fault : Option Fault
  /-- The diagnostic log, oldest first (R304). -/
  diag : List Diagnostic
  /-- MODEL'S OWN (log entry 6): how many free values have been taken. -/
  freeCount : Nat
  deriving DecidableEq, Repr

/-- What a step and a meaning answer. -/
abbrev Result := Host.Outcome State Fault Refusal

namespace State

def setA (s : State) (v : Byte) : State := { s with a := v }
def setX (s : State) (v : Byte) : State := { s with x := v }
def setY (s : State) (v : Byte) : State := { s with y := v }
def setSp (s : State) (v : Byte) : State := { s with sp := v }
def setPc (s : State) (v : Addr) : State := { s with pc := v }
def setP (s : State) (v : Byte) : State := { s with p := v }
def setCycles (s : State) (n : Nat) : State := { s with cycles := n }
def setReady (s : State) (b : Bool) : State := { s with cpuReady := b }
def setRam (s : State) (m : Memory) : State := { s with ram := m }
def setCart (s : State) (c : Cartridge) : State := { s with cart := c }
def setPpu (s : State) (u : Ppu) : State := { s with ppu := u }
def setIrq (s : State) (l : IrqLine) : State := { s with irq := l }
def setFault (s : State) (f : Option Fault) : State := { s with fault := f }
def setDiag (s : State) (d : List Diagnostic) : State := { s with diag := d }
def setFreeCount (s : State) (n : Nat) : State := { s with freeCount := n }

end State

/-- The cartridge of `State.reset` (log entry 5, DESIGN CHOICE): a 16 KB mapper-0 image with horizontal mirroring
and every byte 0x00. -/
def Cartridge.blank : Cartridge :=
  { prgUnits := 1#8, chrUnits := 1#8, mapper := 0#8, mirroring := .horizontal, prg := [], chr := [] }

/-- The PPU at construction (R39), its memories as the parameters `P_INIT_VRAM`, `P_INIT_OAM` and
`P_INIT_PALETTE` give them. -/
def Ppu.initial (vram oam palette : Memory) : Ppu :=
  { vram := vram, oam := oam, palette := palette, ctrl := 0x00#8, mask := 0x00#8, status := 0x00#8
    vaddr := 0x0000#16, w := false, rbuf := 0x00#8, scanline := 0, cycle := 0, nmiPending := false }

/-- The machine right after `reset()` of a freshly constructed machine (R39, R40): A = X = Y = 0, SP = 0xFD,
P = 0x20, the cycle counter 8, and PC the value at the reset vector, which is 0x0000 in the blank cartridge.
Laws/Host.lean proves it equal to the reset sequence run on `construct`. -/
def State.reset : State :=
  { a := 0x00#8, x := 0x00#8, y := 0x00#8, sp := 0xFD#8, pc := 0x0000#16, p := 0x20#8, cycles := 8
    cpuReady := true, ram := [], cart := Cartridge.blank, ppu := Ppu.initial [] [] []
    irq := { levels := [], idle := false }, params := Config.defaultParams
    fault := none, diag := [], freeCount := 0 }

end Sys2Proof.Machine
end

