-- ==== Sys2Proof/Machine/Memory.lean ====
section
/-! DEFINITION. Reading and writing the sparse memories, their canonical form, and `Bus`, what a run of accesses
ends in. -/

namespace Sys2Proof.Machine

/-- What an address that is not listed reads as (log entry 4, DESIGN CHOICE). -/
def unlistedByte : Byte := 0x00#8

/-- The byte at an address. -/
def Memory.read : Memory → Nat → Byte
  | [], _ => unlistedByte
  | (a, v) :: m, k => if k = a then v else Memory.read m k

/-- Storing a byte, the canonical form kept: storing `unlistedByte` removes the entry. -/
def Memory.write : Memory → Nat → Byte → Memory
  | [], k, v => if v = unlistedByte then [] else [(k, v)]
  | (a, w) :: m, k, v =>
    if k < a then (if v = unlistedByte then (a, w) :: m else (k, v) :: (a, w) :: m)
    else if k = a then (if v = unlistedByte then m else (k, v) :: m)
    else (a, w) :: Memory.write m k v

/-- Every listed address is at least `lo`, addresses strictly rise, and no entry is `unlistedByte`. -/
def Memory.wfFrom : Nat → Memory → Bool
  | _, [] => true
  | lo, (a, v) :: m => decide (lo ≤ a) && decide (v ≠ unlistedByte) && Memory.wfFrom (a + 1) m

/-- The canonical form: equal memories are equal lists. -/
def Memory.wf (m : Memory) : Bool := Memory.wfFrom 0 m

/-- Every listed address is below `size`. -/
def Memory.within (size : Nat) (m : Memory) : Bool := m.all fun c => decide (c.1 < size)

/-- The memory that holds the bytes of a list at `k`, `k + 1`, … -/
def Memory.ofBytesFrom : Nat → List Byte → Memory
  | _, [] => []
  | k, v :: vs =>
    if v = unlistedByte then Memory.ofBytesFrom (k + 1) vs else (k, v) :: Memory.ofBytesFrom (k + 1) vs

/-- The memory that holds the bytes of a list from offset 0. -/
def Memory.ofBytes (vs : List Byte) : Memory := Memory.ofBytesFrom 0 vs

/-- What a run of accesses ends in: it delivers a value in a state, or a fault has been recorded in the state and
nothing after the faulting access happens (R130, R301). -/
inductive Bus (α : Type) where
  | ok (v : α) (s : State)
  | stop (s : State)
  deriving Repr

/-- Go on after a run of accesses that delivered a value. -/
def Bus.andThen {α β : Type} (r : Bus α) (f : α → State → Bus β) : Bus β :=
  match r with
  | .ok v s => f v s
  | .stop s => .stop s

/-- The numeric code of a fault, the code column of R300's table. -/
def Fault.code (f : Fault) : Nat :=
  match f with
  | .illegalOpcode _ _ => 1
  | .romWrite _ => 2
  | .readWriteOnly _ => 3
  | .writeReadOnly _ => 4
  | .ppuUnmapped _ => 5
  | .ppuUnimplemented _ _ => 6

/-- The code in the fault record, and none where no fault is recorded (R38, R301: a fault sets `fault` "with its code and info"). -/
def State.faultCode (s : State) : Option Nat := s.fault.map Fault.code

/-- `raise <Fault>(info)` (R10, R301): record the fault and end the pulse. -/
def raise {α : Type} (f : Fault) (s : State) : Bus α := .stop (s.setFault (some f))

/-- The state a run of accesses ends in, which is a next state either way: a fault is recorded in it (log entry 2). -/
def finish {α : Type} (r : Bus α) : Result :=
  match r with
  | .ok _ s => .next s
  | .stop s => .next s

end Sys2Proof.Machine
end

