-- ==== Sys2Proof/Machine/Flags.lean ====
section
/-! DEFINITION. The status register's flags (spec/10_state.md R23) and every flag computation of the spec: Z and N of a
result byte (R127), carry and overflow of add and subtract (R180, R181, R195), compare (R186), BIT (R185), and
the carries of shifts and rotates (R210–R213). -/

namespace Sys2Proof.Machine

/-- The flags of P. -/
inductive Flag where
  | c | z | i | d | b | u | v | n
  deriving DecidableEq, Repr

/-- The bit of P that holds a flag (R23). -/
def Flag.bit (f : Flag) : Nat :=
  match f with
  | .c => 0
  | .z => 1
  | .i => 2
  | .d => 3
  | .b => 4
  | .u => 5
  | .v => 6
  | .n => 7

/-- A flag of a status byte. -/
def getFlag (p : Byte) (f : Flag) : Bool := p.getLsbD f.bit

/-- A status byte with one flag set to a value. -/
def putFlag (p : Byte) (f : Flag) (on : Bool) : Byte :=
  if on then p ||| (1#8 <<< f.bit) else p &&& ~~~(1#8 <<< f.bit)

/-- A flag of P. -/
def State.flag (s : State) (f : Flag) : Bool := getFlag s.p f

/-- `P.f <- on`. -/
def State.putFlag (s : State) (f : Flag) (on : Bool) : State := s.setP (Machine.putFlag s.p f on)

/-- `SetZN(r)`: "Zero flag = result byte is zero; Negative = bit 7 of result" (R127). -/
def setZN (r : Byte) (p : Byte) : Byte := putFlag (putFlag p .z (r == 0x00#8)) .n (r.getLsbD 7)

/-- A carry as a number. -/
def carryIn (c : Bool) : Nat := if c then 1 else 0

/-- `t`, the 9-bit intermediate of ADC (R180). -/
def adcSum (a m : Byte) (c : Bool) : Nat := a.toNat + m.toNat + carryIn c

/-- `R`, the result byte of ADC (R180). -/
def adcResult (a m : Byte) (c : Bool) : Byte := BitVec.ofNat 8 (adcSum a m c)

/-- `P.C` after ADC: `t > 0xFF` (R180). -/
def adcCarry (a m : Byte) (c : Bool) : Bool := decide (adcSum a m c > 0xFF)

/-- `P.V` after ADC: the sign-bit-XOR formula (R180). -/
def adcOverflow (a m r : Byte) : Bool := ((~~~(a ^^^ m)) &&& (a ^^^ r)) &&& 0x80#8 != 0x00#8

/-- P after ADC of `m` to `a`: C, V, Z and N (R180). -/
def adcFlags (a m : Byte) (p : Byte) : Byte :=
  let c := getFlag p .c
  let r := adcResult a m c
  setZN r (putFlag (putFlag p .c (adcCarry a m c)) .v (adcOverflow a m r))

/-- P after a compare of the register value `r` with `m`: C, Z and N (R186–R188). -/
def compareFlags (r m : Byte) (p : Byte) : Byte :=
  setZN (r - m) (putFlag p .c (decide (m.toNat ≤ r.toNat)))

/-- P after BIT: Z from `a & m`, N and V from `m` (R185). -/
def bitFlags (a m : Byte) (p : Byte) : Byte :=
  putFlag (putFlag (putFlag p .z (a &&& m == 0x00#8)) .n (m.getLsbD 7)) .v (m.getLsbD 6)

/-- The result of ASL (R210). -/
def aslResult (m : Byte) : Byte := m <<< 1

/-- The result of LSR (R211). -/
def lsrResult (m : Byte) : Byte := m >>> 1

/-- The result of ROL, `c` the carry before it (R212). -/
def rolResult (c : Bool) (m : Byte) : Byte := (m <<< 1) ||| (if c then 0x01#8 else 0x00#8)

/-- The result of ROR, `c` the carry before it (R213). -/
def rorResult (c : Bool) (m : Byte) : Byte := (if c then 0x80#8 else 0x00#8) ||| (m >>> 1)

/-- P after ASL or ROL of `m` to `r`: C from bit 7 of `m`, Z and N (R210, R212). -/
def leftFlags (m r : Byte) (p : Byte) : Byte := setZN r (putFlag p .c (m.getLsbD 7))

/-- P after LSR or ROR of `m` to `r`: C from bit 0 of `m`, Z and N (R211, R213). -/
def rightFlags (m r : Byte) (p : Byte) : Byte := setZN r (putFlag p .c (m.getLsbD 0))

/-- The status byte that PHP and BRK push: `P | 0x30`, B = 1 and U = 1 (R241, R252). -/
def pushedByProgram (p : Byte) : Byte := p ||| 0x30#8

/-- The status byte that an interrupt entry pushes: `(P & ~0x10) | 0x20`, B = 0 and U = 1 (R309). -/
def pushedByEntry (p : Byte) : Byte := (p &&& ~~~0x10#8) ||| 0x20#8

/-- P after a pull of `v` by PLP or RTI: `(v & 0xCF) | 0x20` (R243, R253). -/
def pulledStatus (v : Byte) : Byte := (v &&& 0xCF#8) ||| 0x20#8

end Sys2Proof.Machine
end

