-- ==== Sys2Proof/Machine/Ppu.lean ====
section
/-! DEFINITION. The PPU (spec/50_ppu.md): its timing automaton, its register bank as the Bus reaches it, and the PPU
address space behind the VRAM address register. -/

namespace Sys2Proof.Machine

/-- Lines of a frame and cycles of a line: the 262 × 341 grid (R260). -/
abbrev scanlines : Nat := 262
abbrev lineCycles : Nat := 341

/-- `status[7] <- on`. -/
def putVblank (status : Byte) (on : Bool) : Byte := if on then status ||| 0x80#8 else status &&& 0x7F#8

/-- The event at the current position: at (241, 1) set vblank, and raise NMI-pending if the control register's
NMI enable is set (R261). -/
def Ppu.event (u : Ppu) : Ppu :=
  if u.scanline = 241 ∧ u.cycle = 1 then
    { u with status := putVblank u.status true, nmiPending := u.nmiPending || u.ctrl.getLsbD 7 }
  else u

/-- The kinds of hook point (R263). -/
inductive Hook where
  | background
  | spriteEvaluation
  | prefetch
  deriving DecidableEq, Repr

/-- The hook point at a position (R263): on the visible scanlines 0–239, cycles 1–256 are background work, cycle 257 is
sprite evaluation and cycles 321–336 are prefetch; scanlines 240 to 261 have none. -/
def hookAt (scanline cycle : Nat) : Option Hook :=
  if 240 ≤ scanline then none
  else if 1 ≤ cycle ∧ cycle ≤ 256 then some .background
  else if cycle = 257 then some .spriteEvaluation
  else if 321 ≤ cycle ∧ cycle ≤ 336 then some .prefetch
  else none

/-- "A hook changes no state of this CORE" (R263): pixel generation is out of scope. -/
def runHook (_ : Hook) (u : Ppu) : Ppu := u

/-- `Hooks(scanline, cycle)` (R260). -/
def Ppu.hooks (u : Ppu) : Ppu :=
  match hookAt u.scanline u.cycle with
  | some h => runHook h u
  | none => u

/-- Advance the position by one cycle; the wrap after scanline 261 clears vblank (R260, R262). -/
def Ppu.advance (u : Ppu) : Ppu :=
  if u.cycle + 1 = lineCycles then
    if u.scanline + 1 = scanlines then
      { u with cycle := 0, scanline := 0, status := putVblank u.status false }
    else { u with cycle := 0, scanline := u.scanline + 1 }
  else { u with cycle := u.cycle + 1 }

/-- One pulse of the PPU's automaton: the events of the position it starts at, the hooks, then the advance (R260). -/
def Ppu.tick (u : Ppu) : Ppu := u.event.hooks.advance

/-- `PpuPulse()`: a machine with a fault has no step (R260, R301). -/
def ppuPulse (s : State) : State :=
  match s.fault with
  | some _ => s
  | none => s.setPpu s.ppu.tick

/-- `n` PPU pulses. -/
def ppuPulses : Nat → State → State
  | 0, s => s
  | n + 1, s => ppuPulses n (ppuPulse s)

/-- `Inc()`: the VRAM increment that control bit 2 selects (R278). -/
def Ppu.increment (u : Ppu) : Nat := if u.ctrl.getLsbD 2 then 32 else 1

/-- `vaddr <- (vaddr + Inc()) & 0x3FFF` (R270, R271, R278). -/
def Ppu.advanceVaddr (u : Ppu) : Ppu :=
  { u with vaddr := (u.vaddr + BitVec.ofNat 16 u.increment) &&& 0x3FFF#16 }

/-- `NtIndex(a)`: the nametable fold of the four logical tables onto two banks (R276). -/
def ntIndex (m : Mirroring) (a : Nat) : Nat :=
  let t := (a - 0x2000) / 0x400
  let bank := match m with
    | .horizontal => t / 2
    | .vertical => t % 2
  bank * 0x400 + a % 0x400

/-- `PalIndex(a)`: the 32-byte repeat, with entries 0x10, 0x14, 0x18 and 0x1C aliased onto 0x00, 0x04, 0x08
and 0x0C (R277). -/
def palIndex (a : Nat) : Nat :=
  let i := a % 0x20
  if i = 0x10 ∨ i = 0x14 ∨ i = 0x18 ∨ i = 0x1C then i - 0x10 else i

/-- `PpuRead(a)` (R274). -/
def ppuRead (a : Addr) (s : State) : Bus Byte :=
  if a.toNat < 0x2000 then .ok (s.cart.chr.read a.toNat) s
  else if a.toNat < 0x3000 then .ok (s.ppu.vram.read (ntIndex s.cart.mirroring a.toNat)) s
  else if a.toNat < 0x3F00 then raise (.ppuUnmapped a) s
  else .ok (s.ppu.palette.read (palIndex a.toNat)) s

/-- `PpuWrite(a, v)` (R275). -/
def ppuWrite (a : Addr) (v : Byte) (s : State) : Bus Unit :=
  if a.toNat < 0x2000 then raise (.romWrite a) s
  else if a.toNat < 0x3000 then
    .ok () (s.setPpu { s.ppu with vram := s.ppu.vram.write (ntIndex s.cart.mirroring a.toNat) v })
  else if a.toNat < 0x3F00 then raise (.ppuUnmapped a) s
  else .ok () (s.setPpu { s.ppu with palette := s.ppu.palette.write (palIndex a.toNat) v })

/-- An access to offset 3, 4 or 5 (R273): the fault `PpuUnimplemented`, or `v` with no effect. -/
def ppuUnimplementedAccess {α : Type} (offset : Nat) (write : Bool) (v : α) (s : State) : Bus α :=
  match s.params.ppuUnimpl with
  | .fault => raise (.ppuUnimplemented offset write) s
  | .ignore => .ok v s

/-- The status read (R268): bits 7:5 of status over the low five bits of the read buffer, vblank as it was before this
read clears it; the read also resets the latch `w`. -/
def readStatus (s : State) : Bus Byte :=
  .ok ((s.ppu.status &&& 0xE0#8) ||| (s.ppu.rbuf &&& 0x1F#8))
    (s.setPpu { s.ppu with status := putVblank s.ppu.status false, w := false })

/-- The VRAM data read (R270): the read buffer, which is refilled; a palette address returns its byte directly; the
VRAM address advances. -/
def readVramData (s : State) : Bus Byte :=
  (ppuRead s.ppu.vaddr s).andThen fun v t =>
    .ok (if 0x3F00 ≤ s.ppu.vaddr.toNat then v else s.ppu.rbuf)
      (t.setPpu { t.ppu with rbuf := v }.advanceVaddr)

/-- The VRAM address write (R269): the high byte first, masked to 0x3FFF, each write toggling the latch. -/
def writeVramAddr (v : Byte) (u : Ppu) : Ppu :=
  if u.w then { u with vaddr := hiLo (hi8 u.vaddr) v &&& 0x3FFF#16, w := false }
  else { u with vaddr := hiLo v (lo8 u.vaddr) &&& 0x3FFF#16, w := true }

/-- The VRAM data write (R271): stored directly, then the VRAM address advances. -/
def writeVramData (v : Byte) (s : State) : Bus Unit :=
  (ppuWrite s.ppu.vaddr v s).andThen fun _ t => .ok () (t.setPpu t.ppu.advanceVaddr)

/-- `PpuRegRead(k)` for the CPU address `a`, `k = a & 7` (R64, R265). -/
def ppuRegRead (a : Addr) (s : State) : Bus Byte :=
  match a.toNat % 8 with
  | 2 => readStatus s
  | 3 => ppuUnimplementedAccess 3 false 0x00#8 s
  | 4 => ppuUnimplementedAccess 4 false 0x00#8 s
  | 5 => ppuUnimplementedAccess 5 false 0x00#8 s
  | 7 => readVramData s
  | _ => raise (.readWriteOnly a) s

/-- `PpuRegWrite(k, v)` for the CPU address `a`, `k = a & 7` (R64, R265, R266, R267). -/
def ppuRegWrite (a : Addr) (v : Byte) (s : State) : Bus Unit :=
  match a.toNat % 8 with
  | 0 => .ok () (s.setPpu { s.ppu with ctrl := v })
  | 1 => .ok () (s.setPpu { s.ppu with mask := v })
  | 2 => raise (.writeReadOnly a) s
  | 3 => ppuUnimplementedAccess 3 true () s
  | 4 => ppuUnimplementedAccess 4 true () s
  | 5 => ppuUnimplementedAccess 5 true () s
  | 6 => .ok () (s.setPpu (writeVramAddr v s.ppu))
  | _ => writeVramData v s

end Sys2Proof.Machine
end

