-- ==== Sys2Proof/Machine/Ops.lean ====
section
/-! DEFINITION. The named operations over the CPU bus and the registers: the Bus's read and write (spec/20_memory.md
R61, R62), the stack primitives (R126), taking an interrupt (R309) and the return from one (R253). -/

namespace Sys2Proof.Machine

/-- The RAM byte that a CPU address below 0x2000 names: `addr & 0x07FF` (R63). -/
def ramIndex (a : Addr) : Nat := a.toNat % 0x800

/-- `PrgRead`'s offset into program ROM (R65): a 16 KB image is mirrored across the window, a 32 KB one occupies it. -/
def prgIndex (c : Cartridge) (a : Addr) : Nat := if c.prgUnits = 1#8 then a.toNat % 0x4000 else a.toNat % 0x8000

/-- A byte of the program-ROM window (R65). -/
def Cartridge.prgByte (c : Cartridge) (a : Addr) : Byte := c.prg.read (prgIndex c a)

/-- The byte of RAM or program ROM at a CPU address, and 0x00 at every other, with no side effect: the host's
accessors for RAM and ROM bytes (R316), and the model's read of one byte in frames. -/
def State.byteAt (s : State) (a : Addr) : Byte :=
  if a.toNat < 0x2000 then s.ram.read (ramIndex a)
  else if a.toNat < 0x8000 then 0x00#8
  else s.cart.prgByte a

/-- `diag <Event>`: append to the diagnostic log (R10, R304). -/
def State.addDiag (s : State) (d : Diagnostic) : State := s.setDiag (s.diag ++ [d])

/-- `MemRead(addr, 1)`, the Bus's read (R61). -/
def memRead (a : Addr) (s : State) : Bus Byte :=
  if a.toNat < 0x2000 then .ok (s.ram.read (ramIndex a)) s
  else if a.toNat < 0x4000 then ppuRegRead a s
  else if a.toNat < 0x8000 then .ok 0x00#8 (s.addDiag (.unmappedRead a))
  else .ok (s.cart.prgByte a) s

/-- `MemWrite(addr, 1, v)`, the Bus's write (R62). -/
def memWrite (a : Addr) (v : Byte) (s : State) : Bus Unit :=
  if a.toNat < 0x2000 then .ok () (s.setRam (s.ram.write (ramIndex a) v))
  else if a.toNat < 0x4000 then ppuRegWrite a v s
  else if a.toNat < 0x8000 then .ok () (s.addDiag (.unmappedWrite a v))
  else raise (.romWrite a) s

/-- The stack byte that an SP value addresses: `0x0100 + SP` (R21). -/
def stackAddr (sp : Byte) : Addr := 0x0100#16 + zext16 sp

/-- `Push(v)`: "push writes then decrements SP" (R126). -/
def push (v : Byte) (s : State) : Bus Unit :=
  (memWrite (stackAddr s.sp) v s).andThen fun _ t => .ok () (t.setSp (t.sp - 1#8))

/-- `Pull()`: "pull increments SP then reads" (R126). -/
def pull (s : State) : Bus Byte :=
  let t := s.setSp (s.sp + 1#8)
  memRead (stackAddr t.sp) t

/-- Push a 16-bit value, high byte first (R68). -/
def pushAddr (w : Addr) (s : State) : Bus Unit :=
  (push (hi8 w) s).andThen fun _ t => push (lo8 w) t

/-- Pull a 16-bit value, low byte first (R68). -/
def pullAddr (s : State) : Bus Addr :=
  (pull s).andThen fun lo t => (pull t).andThen fun hi u => .ok (hiLo hi lo) u

/-- A 16-bit value at an address and the next one, low byte first (R68, R69). -/
def readVector (vec : Addr) (s : State) : Bus Addr :=
  (memRead vec s).andThen fun lo t => (memRead (vec + 1#16) t).andThen fun hi u => .ok (hiLo hi lo) u

/-- The vectors of R71 and R305. -/
def nmiVector : Addr := 0xFFFA#16
def resetVector : Addr := 0xFFFC#16
def irqVector : Addr := 0xFFFE#16

/-- Taking an interrupt, shared by NMI, IRQ (R309) and BRK (R252): push PC high, PC low and the status byte `pushed`, make P
the byte `stored`, and load PC from the vector. Everything is saved on the stack and nothing in a register. -/
def takeInterrupt (pushed stored : Byte) (vec : Addr) (s : State) : Bus Unit :=
  (pushAddr s.pc s).andThen fun _ t =>
    (push pushed t).andThen fun _ t =>
      (readVector vec (t.setP stored)).andThen fun target t => .ok () (t.setPc target)

/-- The two interrupts that are sampled at an instruction boundary (R305). -/
inductive InterruptKind where
  | nmi
  | irq
  deriving DecidableEq, Repr

/-- The vector of an interrupt (R309). -/
def InterruptKind.vector (k : InterruptKind) : Addr :=
  match k with
  | .nmi => nmiVector
  | .irq => irqVector

/-- The cycles of an interrupt's entry, before the pulse's decrement (R309–R311). -/
def InterruptKind.entryCycles (k : InterruptKind) : Nat :=
  match k with
  | .nmi => 8
  | .irq => 7

/-- P after an interrupt entry: B = 0, U = 1, I = 1 (R309). -/
def storedByEntry (p : Byte) : Byte := putFlag (putFlag (putFlag p .b false) .u true) .i true

/-- `InterruptEntry(kind)` (R309). -/
def interruptEntry (k : InterruptKind) (s : State) : Bus Unit :=
  (takeInterrupt (pushedByEntry s.p) (storedByEntry s.p) k.vector s).andThen fun _ t =>
    .ok () (t.setCycles k.entryCycles)

/-- Return from interrupt (R253, R312): pull P, with B = 0 and U = 1, then PC, with no +1. -/
def returnFromInterrupt (s : State) : Bus Unit :=
  (pull s).andThen fun v t =>
    (pullAddr (t.setP (pulledStatus v))).andThen fun target u => .ok () (u.setPc target)

end Sys2Proof.Machine
end

