-- ==== Sys2Proof/Machine/Operands.lean ====
section
/-! DEFINITION. The operand forms (spec/41_addressing.md R140–R152) and the shapes that an instruction over an operand
has: read, store, read-modify-write, branch. The operand bytes are those of the instruction; fetching them from memory is
Machine/Pulse.lean's (log entry 10). -/

namespace Sys2Proof.Machine

/-- A memory operand, by its mode. -/
inductive MemOperand where
  | zp (z : Byte)
  | zpx (z : Byte)
  | zpy (z : Byte)
  | abs (addr : Addr)
  | abx (addr : Addr)
  | aby (addr : Addr)
  | izx (z : Byte)
  | izy (z : Byte)
  deriving DecidableEq, Repr

/-- What a reading instruction reads: its immediate byte, or memory. -/
inductive Source where
  | imm (n : Byte)
  | mem (m : MemOperand)
  deriving DecidableEq, Repr

/-- What a read-modify-write instruction changes: A ("operand = accumulator", R140), or memory. -/
inductive Target where
  | acc
  | mem (m : MemOperand)
  deriving DecidableEq, Repr

/-- The 16-bit pointer at the zero-page addresses `z` (low) and `z + 1` (high), the second wrapping within page 0
(R149, R150). Zero page is RAM, so the two reads have no side effect and no fault (log entry 16). -/
def zpPointer (s : State) (z : Byte) : Addr :=
  hiLo (s.ram.read (z + 1#8).toNat) (s.ram.read z.toNat)

/-- The address an indexed mode starts from: the one before Y or a 16-bit X is added (R146, R147, R150). -/
def MemOperand.base (m : MemOperand) (s : State) : Addr :=
  match m with
  | .zp z => zext16 z
  | .zpx z => zext16 (z + s.x)
  | .zpy z => zext16 (z + s.y)
  | .abs addr => addr
  | .abx addr => addr
  | .aby addr => addr
  | .izx z => zpPointer s (z + s.x)
  | .izy z => zpPointer s z

/-- `addr_abs`, the effective address (R142–R147, R149, R150). -/
def MemOperand.ea (m : MemOperand) (s : State) : Addr :=
  match m with
  | .abx _ => m.base s + zext16 s.x
  | .aby _ => m.base s + zext16 s.y
  | .izy _ => m.base s + zext16 s.y
  | .zp _ => m.base s
  | .zpx _ => m.base s
  | .zpy _ => m.base s
  | .abs _ => m.base s
  | .izx _ => m.base s

/-- `f1`: the resolver reports a page cross (R152). -/
def MemOperand.crosses (m : MemOperand) (s : State) : Bool := hi8 (m.ea s) != hi8 (m.base s)

/-- `f1` of a source. -/
def Source.crosses (src : Source) (s : State) : Bool :=
  match src with
  | .imm _ => false
  | .mem m => m.crosses s

/-- `Fetch()` for a reading instruction (R125). -/
def Source.fetch (src : Source) (s : State) : Bus Byte :=
  match src with
  | .imm n => .ok n s
  | .mem m => memRead (m.ea s) s

/-- `cycles <- cycles + (f1 AND f2)` (R121). -/
def addCross (f1 f2 : Bool) (s : State) : State := s.setCycles (s.cycles + (if f1 && f2 then 1 else 0))

/-- A reading instruction: `Fetch()`, then `op` on the byte; `f2` says whether the operation reports a possible
page cross (R103). -/
def readForm (f2 : Bool) (op : Byte → State → State) (src : Source) (s : State) : Result :=
  finish ((src.fetch s).andThen fun v t => .ok () (addCross (src.crosses s) f2 (op v t)))

/-- A storing instruction: one write at the effective address and no read of it (R163–R165). -/
def storeForm (v : Byte) (m : MemOperand) (s : State) : Result := finish (memWrite (m.ea s) v s)

/-- A read-modify-write instruction: `M <- Fetch()`, `R <- f M`, `WriteBack(R)`, then P from `M` and `R` (R189, R190,
R210–R213). The flags are not written when the write faults. -/
def modifyForm (f : Byte → Byte) (flags : Byte → Byte → Byte → Byte) (tgt : Target) (s : State) : Result :=
  match tgt with
  | .acc => .next ((s.setA (f s.a)).setP (flags s.a (f s.a) s.p))
  | .mem m =>
    finish ((memRead (m.ea s) s).andThen fun v t =>
      (memWrite (m.ea s) (f v) t).andThen fun _ u => .ok () (u.setP (flags v (f v) u.p)))

/-- Where JMP indirect reads its target's high byte: "a pointer whose low byte is 0xFF wraps its high-byte fetch within the
same page" (R148). -/
def indirectHigh (ptr : Addr) : Addr := if lo8 ptr = 0xFF#8 then ptr &&& 0xFF00#16 else ptr + 1#16

/-- The target of JMP indirect: the 16-bit value behind the pointer, low byte read first (R148). -/
def indirectTarget (ptr : Addr) (s : State) : Bus Addr :=
  (memRead ptr s).andThen fun lo t => (memRead (indirectHigh ptr) t).andThen fun hi u => .ok (hiLo hi lo) u

/-- `Branch(cond)` (R220): when the condition holds, one cycle more, one further cycle when the target's page differs from
the page of PC after the offset byte, and PC the target. -/
def branchForm (cond : Bool) (r : Byte) (s : State) : Result :=
  if cond then
    let target := s.pc + sext16 r
    let extra := if hi8 target != hi8 s.pc then 2 else 1
    .next ((s.setCycles (s.cycles + extra)).setPc target)
  else .next s

end Sys2Proof.Machine
end

