-- ==== Sys2Proof/Machine/LoadStore.lean ====
section
/-! DEFINITION. Loads, stores and register transfers (spec/42_load_store_transfer.md): one meaning for each constructor. A meaning runs after the fetch: PC is past the instruction and `cycles` is its base count (Machine/Pulse.lean). -/

namespace Sys2Proof.Machine

/-- `A <- v; SetZN(A)`. -/
def loadA (v : Byte) (s : State) : State := (s.setA v).setP (setZN v s.p)

/-- `X <- v; SetZN(X)`. -/
def loadX (v : Byte) (s : State) : State := (s.setX v).setP (setZN v s.p)

/-- `Y <- v; SetZN(Y)`. -/
def loadY (v : Byte) (s : State) : State := (s.setY v).setP (setZN v s.p)

/-- `LDA #$nn` (R160, R141). -/
def execLdaImm (n : Byte) (s : State) : Result := readForm true loadA (.imm n) s

/-- `LDA $zz` (R160, R142). -/
def execLdaZp (z : Byte) (s : State) : Result := readForm true loadA (.mem (.zp z)) s

/-- `LDA $zz,X` (R160, R143). -/
def execLdaZpx (z : Byte) (s : State) : Result := readForm true loadA (.mem (.zpx z)) s

/-- `LDA $hhll` (R160, R145). -/
def execLdaAbs (addr : Addr) (s : State) : Result := readForm true loadA (.mem (.abs addr)) s

/-- `LDA $hhll,X` (R160, R146). -/
def execLdaAbx (addr : Addr) (s : State) : Result := readForm true loadA (.mem (.abx addr)) s

/-- `LDA $hhll,Y` (R160, R147). -/
def execLdaAby (addr : Addr) (s : State) : Result := readForm true loadA (.mem (.aby addr)) s

/-- `LDA ($zz,X)` (R160, R149). -/
def execLdaIzx (z : Byte) (s : State) : Result := readForm true loadA (.mem (.izx z)) s

/-- `LDA ($zz),Y` (R160, R150). -/
def execLdaIzy (z : Byte) (s : State) : Result := readForm true loadA (.mem (.izy z)) s

/-- `LDX #$nn` (R161, R141). -/
def execLdxImm (n : Byte) (s : State) : Result := readForm true loadX (.imm n) s

/-- `LDX $zz` (R161, R142). -/
def execLdxZp (z : Byte) (s : State) : Result := readForm true loadX (.mem (.zp z)) s

/-- `LDX $zz,Y` (R161, R144). -/
def execLdxZpy (z : Byte) (s : State) : Result := readForm true loadX (.mem (.zpy z)) s

/-- `LDX $hhll` (R161, R145). -/
def execLdxAbs (addr : Addr) (s : State) : Result := readForm true loadX (.mem (.abs addr)) s

/-- `LDX $hhll,Y` (R161, R147). -/
def execLdxAby (addr : Addr) (s : State) : Result := readForm true loadX (.mem (.aby addr)) s

/-- `LDY #$nn` (R162, R141). -/
def execLdyImm (n : Byte) (s : State) : Result := readForm true loadY (.imm n) s

/-- `LDY $zz` (R162, R142). -/
def execLdyZp (z : Byte) (s : State) : Result := readForm true loadY (.mem (.zp z)) s

/-- `LDY $zz,X` (R162, R143). -/
def execLdyZpx (z : Byte) (s : State) : Result := readForm true loadY (.mem (.zpx z)) s

/-- `LDY $hhll` (R162, R145). -/
def execLdyAbs (addr : Addr) (s : State) : Result := readForm true loadY (.mem (.abs addr)) s

/-- `LDY $hhll,X` (R162, R146). -/
def execLdyAbx (addr : Addr) (s : State) : Result := readForm true loadY (.mem (.abx addr)) s

/-- `STA $zz` (R163, R142). -/
def execStaZp (z : Byte) (s : State) : Result := storeForm s.a (.zp z) s

/-- `STA $zz,X` (R163, R143). -/
def execStaZpx (z : Byte) (s : State) : Result := storeForm s.a (.zpx z) s

/-- `STA $hhll` (R163, R145). -/
def execStaAbs (addr : Addr) (s : State) : Result := storeForm s.a (.abs addr) s

/-- `STA $hhll,X` (R163, R146). -/
def execStaAbx (addr : Addr) (s : State) : Result := storeForm s.a (.abx addr) s

/-- `STA $hhll,Y` (R163, R147). -/
def execStaAby (addr : Addr) (s : State) : Result := storeForm s.a (.aby addr) s

/-- `STA ($zz,X)` (R163, R149). -/
def execStaIzx (z : Byte) (s : State) : Result := storeForm s.a (.izx z) s

/-- `STA ($zz),Y` (R163, R150). -/
def execStaIzy (z : Byte) (s : State) : Result := storeForm s.a (.izy z) s

/-- `STX $zz` (R164, R142). -/
def execStxZp (z : Byte) (s : State) : Result := storeForm s.x (.zp z) s

/-- `STX $zz,Y` (R164, R144). -/
def execStxZpy (z : Byte) (s : State) : Result := storeForm s.x (.zpy z) s

/-- `STX $hhll` (R164, R145). -/
def execStxAbs (addr : Addr) (s : State) : Result := storeForm s.x (.abs addr) s

/-- `STY $zz` (R165, R142). -/
def execStyZp (z : Byte) (s : State) : Result := storeForm s.y (.zp z) s

/-- `STY $zz,X` (R165, R143). -/
def execStyZpx (z : Byte) (s : State) : Result := storeForm s.y (.zpx z) s

/-- `STY $hhll` (R165, R145). -/
def execStyAbs (addr : Addr) (s : State) : Result := storeForm s.y (.abs addr) s

/-- `TAX`: X <- A; SetZN(X) (R166). -/
def execTax (s : State) : Result := .next (loadX s.a s)

/-- `TAY`: Y <- A; SetZN(Y) (R167). -/
def execTay (s : State) : Result := .next (loadY s.a s)

/-- `TSX`: X <- SP; SetZN(X) (R168). -/
def execTsx (s : State) : Result := .next (loadX s.sp s)

/-- `TXA`: A <- X; SetZN(A) (R169). -/
def execTxa (s : State) : Result := .next (loadA s.x s)

/-- `TXS`: SP <- X, no flag (R170). -/
def execTxs (s : State) : Result := .next (s.setSp s.x)

/-- `TYA`: A <- Y; SetZN(A) (R171). -/
def execTya (s : State) : Result := .next (loadA s.y s)

end Sys2Proof.Machine
end

