-- ==== Sys2Proof/Machine/Alu.lean ====
section
/-! DEFINITION. ALU operations (spec/43_alu.md): one meaning for each constructor. ADC and SBC are binary (R196). -/

namespace Sys2Proof.Machine

/-- ADC of `m` to A: binary whatever D holds (R180, R196). -/
def addToA (m : Byte) (s : State) : State := (s.setA (adcResult s.a m (s.flag .c))).setP (adcFlags s.a m s.p)

/-- SBC of `m` from A: ADC of the one's complement (R181). -/
def subtractFromA (m : Byte) (s : State) : State := addToA (m ^^^ 0xFF#8) s

def andA (m : Byte) (s : State) : State := loadA (s.a &&& m) s
def orA (m : Byte) (s : State) : State := loadA (s.a ||| m) s
def eorA (m : Byte) (s : State) : State := loadA (s.a ^^^ m) s

/-- BIT of `m`: A is unchanged (R185). -/
def testBits (m : Byte) (s : State) : State := s.setP (bitFlags s.a m s.p)

def compareA (m : Byte) (s : State) : State := s.setP (compareFlags s.a m s.p)
def compareX (m : Byte) (s : State) : State := s.setP (compareFlags s.x m s.p)
def compareY (m : Byte) (s : State) : State := s.setP (compareFlags s.y m s.p)

/-- `(v + 1) & 0xFF` (R189, R191, R192). -/
def incByte (v : Byte) : Byte := v + 1#8

/-- `(v - 1) & 0xFF` (R190, R193, R194). -/
def decByte (v : Byte) : Byte := v - 1#8

/-- P after INC or DEC to `r`: Z and N (R189, R190). -/
def stepFlags (_ r : Byte) (p : Byte) : Byte := setZN r p

/-- `ADC #$nn` (R180, R141). -/
def execAdcImm (n : Byte) (s : State) : Result := readForm true addToA (.imm n) s

/-- `ADC $zz` (R180, R142). -/
def execAdcZp (z : Byte) (s : State) : Result := readForm true addToA (.mem (.zp z)) s

/-- `ADC $zz,X` (R180, R143). -/
def execAdcZpx (z : Byte) (s : State) : Result := readForm true addToA (.mem (.zpx z)) s

/-- `ADC $hhll` (R180, R145). -/
def execAdcAbs (addr : Addr) (s : State) : Result := readForm true addToA (.mem (.abs addr)) s

/-- `ADC $hhll,X` (R180, R146). -/
def execAdcAbx (addr : Addr) (s : State) : Result := readForm true addToA (.mem (.abx addr)) s

/-- `ADC $hhll,Y` (R180, R147). -/
def execAdcAby (addr : Addr) (s : State) : Result := readForm true addToA (.mem (.aby addr)) s

/-- `ADC ($zz,X)` (R180, R149). -/
def execAdcIzx (z : Byte) (s : State) : Result := readForm true addToA (.mem (.izx z)) s

/-- `ADC ($zz),Y` (R180, R150). -/
def execAdcIzy (z : Byte) (s : State) : Result := readForm true addToA (.mem (.izy z)) s

/-- `SBC #$nn` (R181, R141). -/
def execSbcImm (n : Byte) (s : State) : Result := readForm true subtractFromA (.imm n) s

/-- `SBC $zz` (R181, R142). -/
def execSbcZp (z : Byte) (s : State) : Result := readForm true subtractFromA (.mem (.zp z)) s

/-- `SBC $zz,X` (R181, R143). -/
def execSbcZpx (z : Byte) (s : State) : Result := readForm true subtractFromA (.mem (.zpx z)) s

/-- `SBC $hhll` (R181, R145). -/
def execSbcAbs (addr : Addr) (s : State) : Result := readForm true subtractFromA (.mem (.abs addr)) s

/-- `SBC $hhll,X` (R181, R146). -/
def execSbcAbx (addr : Addr) (s : State) : Result := readForm true subtractFromA (.mem (.abx addr)) s

/-- `SBC $hhll,Y` (R181, R147). -/
def execSbcAby (addr : Addr) (s : State) : Result := readForm true subtractFromA (.mem (.aby addr)) s

/-- `SBC ($zz,X)` (R181, R149). -/
def execSbcIzx (z : Byte) (s : State) : Result := readForm true subtractFromA (.mem (.izx z)) s

/-- `SBC ($zz),Y` (R181, R150). -/
def execSbcIzy (z : Byte) (s : State) : Result := readForm true subtractFromA (.mem (.izy z)) s

/-- `AND #$nn` (R182, R141). -/
def execAndImm (n : Byte) (s : State) : Result := readForm true andA (.imm n) s

/-- `AND $zz` (R182, R142). -/
def execAndZp (z : Byte) (s : State) : Result := readForm true andA (.mem (.zp z)) s

/-- `AND $zz,X` (R182, R143). -/
def execAndZpx (z : Byte) (s : State) : Result := readForm true andA (.mem (.zpx z)) s

/-- `AND $hhll` (R182, R145). -/
def execAndAbs (addr : Addr) (s : State) : Result := readForm true andA (.mem (.abs addr)) s

/-- `AND $hhll,X` (R182, R146). -/
def execAndAbx (addr : Addr) (s : State) : Result := readForm true andA (.mem (.abx addr)) s

/-- `AND $hhll,Y` (R182, R147). -/
def execAndAby (addr : Addr) (s : State) : Result := readForm true andA (.mem (.aby addr)) s

/-- `AND ($zz,X)` (R182, R149). -/
def execAndIzx (z : Byte) (s : State) : Result := readForm true andA (.mem (.izx z)) s

/-- `AND ($zz),Y` (R182, R150). -/
def execAndIzy (z : Byte) (s : State) : Result := readForm true andA (.mem (.izy z)) s

/-- `ORA #$nn` (R183, R141). -/
def execOraImm (n : Byte) (s : State) : Result := readForm true orA (.imm n) s

/-- `ORA $zz` (R183, R142). -/
def execOraZp (z : Byte) (s : State) : Result := readForm true orA (.mem (.zp z)) s

/-- `ORA $zz,X` (R183, R143). -/
def execOraZpx (z : Byte) (s : State) : Result := readForm true orA (.mem (.zpx z)) s

/-- `ORA $hhll` (R183, R145). -/
def execOraAbs (addr : Addr) (s : State) : Result := readForm true orA (.mem (.abs addr)) s

/-- `ORA $hhll,X` (R183, R146). -/
def execOraAbx (addr : Addr) (s : State) : Result := readForm true orA (.mem (.abx addr)) s

/-- `ORA $hhll,Y` (R183, R147). -/
def execOraAby (addr : Addr) (s : State) : Result := readForm true orA (.mem (.aby addr)) s

/-- `ORA ($zz,X)` (R183, R149). -/
def execOraIzx (z : Byte) (s : State) : Result := readForm true orA (.mem (.izx z)) s

/-- `ORA ($zz),Y` (R183, R150). -/
def execOraIzy (z : Byte) (s : State) : Result := readForm true orA (.mem (.izy z)) s

/-- `EOR #$nn` (R184, R141). -/
def execEorImm (n : Byte) (s : State) : Result := readForm true eorA (.imm n) s

/-- `EOR $zz` (R184, R142). -/
def execEorZp (z : Byte) (s : State) : Result := readForm true eorA (.mem (.zp z)) s

/-- `EOR $zz,X` (R184, R143). -/
def execEorZpx (z : Byte) (s : State) : Result := readForm true eorA (.mem (.zpx z)) s

/-- `EOR $hhll` (R184, R145). -/
def execEorAbs (addr : Addr) (s : State) : Result := readForm true eorA (.mem (.abs addr)) s

/-- `EOR $hhll,X` (R184, R146). -/
def execEorAbx (addr : Addr) (s : State) : Result := readForm true eorA (.mem (.abx addr)) s

/-- `EOR $hhll,Y` (R184, R147). -/
def execEorAby (addr : Addr) (s : State) : Result := readForm true eorA (.mem (.aby addr)) s

/-- `EOR ($zz,X)` (R184, R149). -/
def execEorIzx (z : Byte) (s : State) : Result := readForm true eorA (.mem (.izx z)) s

/-- `EOR ($zz),Y` (R184, R150). -/
def execEorIzy (z : Byte) (s : State) : Result := readForm true eorA (.mem (.izy z)) s

/-- `BIT $zz` (R185, R142). -/
def execBitZp (z : Byte) (s : State) : Result := readForm false testBits (.mem (.zp z)) s

/-- `BIT $hhll` (R185, R145). -/
def execBitAbs (addr : Addr) (s : State) : Result := readForm false testBits (.mem (.abs addr)) s

/-- `CMP #$nn` (R186, R141). -/
def execCmpImm (n : Byte) (s : State) : Result := readForm true compareA (.imm n) s

/-- `CMP $zz` (R186, R142). -/
def execCmpZp (z : Byte) (s : State) : Result := readForm true compareA (.mem (.zp z)) s

/-- `CMP $zz,X` (R186, R143). -/
def execCmpZpx (z : Byte) (s : State) : Result := readForm true compareA (.mem (.zpx z)) s

/-- `CMP $hhll` (R186, R145). -/
def execCmpAbs (addr : Addr) (s : State) : Result := readForm true compareA (.mem (.abs addr)) s

/-- `CMP $hhll,X` (R186, R146). -/
def execCmpAbx (addr : Addr) (s : State) : Result := readForm true compareA (.mem (.abx addr)) s

/-- `CMP $hhll,Y` (R186, R147). -/
def execCmpAby (addr : Addr) (s : State) : Result := readForm true compareA (.mem (.aby addr)) s

/-- `CMP ($zz,X)` (R186, R149). -/
def execCmpIzx (z : Byte) (s : State) : Result := readForm true compareA (.mem (.izx z)) s

/-- `CMP ($zz),Y` (R186, R150). -/
def execCmpIzy (z : Byte) (s : State) : Result := readForm true compareA (.mem (.izy z)) s

/-- `CPX #$nn` (R187, R141). -/
def execCpxImm (n : Byte) (s : State) : Result := readForm false compareX (.imm n) s

/-- `CPX $zz` (R187, R142). -/
def execCpxZp (z : Byte) (s : State) : Result := readForm false compareX (.mem (.zp z)) s

/-- `CPX $hhll` (R187, R145). -/
def execCpxAbs (addr : Addr) (s : State) : Result := readForm false compareX (.mem (.abs addr)) s

/-- `CPY #$nn` (R188, R141). -/
def execCpyImm (n : Byte) (s : State) : Result := readForm false compareY (.imm n) s

/-- `CPY $zz` (R188, R142). -/
def execCpyZp (z : Byte) (s : State) : Result := readForm false compareY (.mem (.zp z)) s

/-- `CPY $hhll` (R188, R145). -/
def execCpyAbs (addr : Addr) (s : State) : Result := readForm false compareY (.mem (.abs addr)) s

/-- `INC $zz` (R189, R142). -/
def execIncZp (z : Byte) (s : State) : Result := modifyForm incByte stepFlags (.mem (.zp z)) s

/-- `INC $zz,X` (R189, R143). -/
def execIncZpx (z : Byte) (s : State) : Result := modifyForm incByte stepFlags (.mem (.zpx z)) s

/-- `INC $hhll` (R189, R145). -/
def execIncAbs (addr : Addr) (s : State) : Result := modifyForm incByte stepFlags (.mem (.abs addr)) s

/-- `INC $hhll,X` (R189, R146). -/
def execIncAbx (addr : Addr) (s : State) : Result := modifyForm incByte stepFlags (.mem (.abx addr)) s

/-- `DEC $zz` (R190, R142). -/
def execDecZp (z : Byte) (s : State) : Result := modifyForm decByte stepFlags (.mem (.zp z)) s

/-- `DEC $zz,X` (R190, R143). -/
def execDecZpx (z : Byte) (s : State) : Result := modifyForm decByte stepFlags (.mem (.zpx z)) s

/-- `DEC $hhll` (R190, R145). -/
def execDecAbs (addr : Addr) (s : State) : Result := modifyForm decByte stepFlags (.mem (.abs addr)) s

/-- `DEC $hhll,X` (R190, R146). -/
def execDecAbx (addr : Addr) (s : State) : Result := modifyForm decByte stepFlags (.mem (.abx addr)) s

/-- `INX`: X <- X + 1; SetZN(X) (R191). -/
def execInx (s : State) : Result := .next (loadX (incByte s.x) s)

/-- `INY`: Y <- Y + 1; SetZN(Y) (R192). -/
def execIny (s : State) : Result := .next (loadY (incByte s.y) s)

/-- `DEX`: X <- X - 1; SetZN(X) (R193). -/
def execDex (s : State) : Result := .next (loadX (decByte s.x) s)

/-- `DEY`: Y <- Y - 1; SetZN(Y) (R194). -/
def execDey (s : State) : Result := .next (loadY (decByte s.y) s)

end Sys2Proof.Machine
end

