-- ==== Sys2Proof/Machine/Branch.lean ====
section
/-! DEFINITION. Branches, jumps and subroutines (spec/45_branch_jump.md): one meaning for each constructor. PC at the start of a meaning is the address of the byte after the instruction. -/

namespace Sys2Proof.Machine

/-- `BCC $tttt`: `Branch(P.C = 0)` (R221). -/
def execBcc (r : Byte) (s : State) : Result := branchForm (!(s.flag .c)) r s

/-- `BCS $tttt`: `Branch(P.C = 1)` (R222). -/
def execBcs (r : Byte) (s : State) : Result := branchForm (s.flag .c) r s

/-- `BEQ $tttt`: `Branch(P.Z = 1)` (R223). -/
def execBeq (r : Byte) (s : State) : Result := branchForm (s.flag .z) r s

/-- `BMI $tttt`: `Branch(P.N = 1)` (R224). -/
def execBmi (r : Byte) (s : State) : Result := branchForm (s.flag .n) r s

/-- `BNE $tttt`: `Branch(P.Z = 0)` (R225). -/
def execBne (r : Byte) (s : State) : Result := branchForm (!(s.flag .z)) r s

/-- `BPL $tttt`: `Branch(P.N = 0)` (R226). -/
def execBpl (r : Byte) (s : State) : Result := branchForm (!(s.flag .n)) r s

/-- `BVC $tttt`: `Branch(P.V = 0)` (R227). -/
def execBvc (r : Byte) (s : State) : Result := branchForm (!(s.flag .v)) r s

/-- `BVS $tttt`: `Branch(P.V = 1)` (R228). -/
def execBvs (r : Byte) (s : State) : Result := branchForm (s.flag .v) r s

/-- `JMP $hhll`: `PC <- addr_abs` (R229). -/
def execJmpAbs (addr : Addr) (s : State) : Result := .next (s.setPc addr)

/-- `JMP ($hhll)`: `PC <-` the target behind the pointer (R229). -/
def execJmpInd (ptr : Addr) (s : State) : Result :=
  finish ((indirectTarget ptr s).andThen fun target t => .ok () (t.setPc target))

/-- `JSR $hhll`: push the address of the last byte of JSR, high byte first, and `PC <- addr_abs` (R230). -/
def execJsr (addr : Addr) (s : State) : Result :=
  finish ((pushAddr (s.pc - 1#16) s).andThen fun _ t => .ok () (t.setPc addr))

/-- `RTS`: pull the return address, low byte first, and PC <- it + 1 (R231). -/
def execRts (s : State) : Result := finish ((pullAddr s).andThen fun ret t => .ok () (t.setPc (ret + 1#16)))

end Sys2Proof.Machine
end

