-- ==== Sys2Proof/Machine/Shift.lean ====
section
/-! DEFINITION. Shifts and rotates (spec/44_shift_rotate.md): one meaning for each constructor. The accumulator form reads and writes A; the memory form writes the result back to the operand's address. -/

namespace Sys2Proof.Machine

/-- `ASL (accumulator form; also written ASL A)` (R210, R140). -/
def execAslAcc (s : State) : Result := modifyForm aslResult leftFlags .acc s

/-- `ASL $zz` (R210, R142). -/
def execAslZp (z : Byte) (s : State) : Result := modifyForm aslResult leftFlags (.mem (.zp z)) s

/-- `ASL $zz,X` (R210, R143). -/
def execAslZpx (z : Byte) (s : State) : Result := modifyForm aslResult leftFlags (.mem (.zpx z)) s

/-- `ASL $hhll` (R210, R145). -/
def execAslAbs (addr : Addr) (s : State) : Result := modifyForm aslResult leftFlags (.mem (.abs addr)) s

/-- `ASL $hhll,X` (R210, R146). -/
def execAslAbx (addr : Addr) (s : State) : Result := modifyForm aslResult leftFlags (.mem (.abx addr)) s

/-- `LSR (accumulator form; also written LSR A)` (R211, R140). -/
def execLsrAcc (s : State) : Result := modifyForm lsrResult rightFlags .acc s

/-- `LSR $zz` (R211, R142). -/
def execLsrZp (z : Byte) (s : State) : Result := modifyForm lsrResult rightFlags (.mem (.zp z)) s

/-- `LSR $zz,X` (R211, R143). -/
def execLsrZpx (z : Byte) (s : State) : Result := modifyForm lsrResult rightFlags (.mem (.zpx z)) s

/-- `LSR $hhll` (R211, R145). -/
def execLsrAbs (addr : Addr) (s : State) : Result := modifyForm lsrResult rightFlags (.mem (.abs addr)) s

/-- `LSR $hhll,X` (R211, R146). -/
def execLsrAbx (addr : Addr) (s : State) : Result := modifyForm lsrResult rightFlags (.mem (.abx addr)) s

/-- `ROL (accumulator form; also written ROL A)` (R212, R140). -/
def execRolAcc (s : State) : Result := modifyForm (rolResult (s.flag .c)) leftFlags .acc s

/-- `ROL $zz` (R212, R142). -/
def execRolZp (z : Byte) (s : State) : Result := modifyForm (rolResult (s.flag .c)) leftFlags (.mem (.zp z)) s

/-- `ROL $zz,X` (R212, R143). -/
def execRolZpx (z : Byte) (s : State) : Result := modifyForm (rolResult (s.flag .c)) leftFlags (.mem (.zpx z)) s

/-- `ROL $hhll` (R212, R145). -/
def execRolAbs (addr : Addr) (s : State) : Result := modifyForm (rolResult (s.flag .c)) leftFlags (.mem (.abs addr)) s

/-- `ROL $hhll,X` (R212, R146). -/
def execRolAbx (addr : Addr) (s : State) : Result := modifyForm (rolResult (s.flag .c)) leftFlags (.mem (.abx addr)) s

/-- `ROR (accumulator form; also written ROR A)` (R213, R140). -/
def execRorAcc (s : State) : Result := modifyForm (rorResult (s.flag .c)) rightFlags .acc s

/-- `ROR $zz` (R213, R142). -/
def execRorZp (z : Byte) (s : State) : Result := modifyForm (rorResult (s.flag .c)) rightFlags (.mem (.zp z)) s

/-- `ROR $zz,X` (R213, R143). -/
def execRorZpx (z : Byte) (s : State) : Result := modifyForm (rorResult (s.flag .c)) rightFlags (.mem (.zpx z)) s

/-- `ROR $hhll` (R213, R145). -/
def execRorAbs (addr : Addr) (s : State) : Result :=
  modifyForm (rorResult (s.flag .c)) rightFlags (.mem (.abs addr)) s

/-- `ROR $hhll,X` (R213, R146). -/
def execRorAbx (addr : Addr) (s : State) : Result :=
  modifyForm (rorResult (s.flag .c)) rightFlags (.mem (.abx addr)) s

end Sys2Proof.Machine
end

