-- ==== Sys2Proof/Machine/System.lean ====
section
/-! DEFINITION. Stack, status-flag and system instructions (spec/46_stack_status_system.md): one meaning for each constructor. -/

namespace Sys2Proof.Machine

/-- `PHA`: Push(A) (R240). -/
def execPha (s : State) : Result := finish (push s.a s)

/-- `PHP`: Push(P | 0x30); P is unchanged (R241). -/
def execPhp (s : State) : Result := finish (push (pushedByProgram s.p) s)

/-- `PLA`: A <- Pull(); SetZN(A) (R242). -/
def execPla (s : State) : Result := finish ((pull s).andThen fun v t => .ok () (loadA v t))

/-- `PLP`: `P <- (Pull() & 0xCF) | 0x20` (R243). -/
def execPlp (s : State) : Result := finish ((pull s).andThen fun v t => .ok () (t.setP (pulledStatus v)))

/-- `CLC`: `P.C <- 0` (R244). -/
def execClc (s : State) : Result := .next (s.putFlag .c false)

/-- `CLD`: `P.D <- 0` (R245). -/
def execCld (s : State) : Result := .next (s.putFlag .d false)

/-- `CLI`: `P.I <- 0` (R246). -/
def execCli (s : State) : Result := .next (s.putFlag .i false)

/-- `CLV`: `P.V <- 0` (R247). -/
def execClv (s : State) : Result := .next (s.putFlag .v false)

/-- `SEC`: `P.C <- 1` (R248). -/
def execSec (s : State) : Result := .next (s.putFlag .c true)

/-- `SED`: `P.D <- 1` (R249). -/
def execSed (s : State) : Result := .next (s.putFlag .d true)

/-- `SEI`: `P.I <- 1` (R250). -/
def execSei (s : State) : Result := .next (s.putFlag .i true)

/-- `NOP`: no effect beyond PC and the cycles that the fetch accounts for (R251). -/
def execNop (s : State) : Result := .next s

/-- `BRK`: skip the byte after BRK, push PC and `P | 0x30`, `P.I <- 1`, and load PC from the IRQ vector (R252). -/
def execBrk (s : State) : Result :=
  finish (takeInterrupt (pushedByProgram s.p) (Machine.putFlag s.p .i true) irqVector (s.setPc (s.pc + 1#16)))

/-- `RTI`: pull P, then PC (R253). -/
def execRti (s : State) : Result := finish (returnFromInterrupt s)

/-- ILLEGAL: `raise IllegalOpcode(opcode, PC - 1)` (R254). The fault is recorded and the machine halts (R301). -/
def execIllegal (opcode : Byte) (s : State) : Result :=
  finish (raise (α := Unit) (.illegalOpcode opcode (s.pc - 1#16)) s)

end Sys2Proof.Machine
end

