-- ==== Sys2Proof/Machine/Dispatch.lean ====
section
/-! DEFINITION. One arm for each constructor of Instr: what an instruction does once it is fetched. -/

namespace Sys2Proof.Machine

def exec (i : Instr) (s : State) : Host.Outcome State Fault Refusal :=
  match i with
  | .ldaImm n => Sys2Proof.Machine.execLdaImm n s
  | .ldaZp z => Sys2Proof.Machine.execLdaZp z s
  | .ldaZpx z => Sys2Proof.Machine.execLdaZpx z s
  | .ldaAbs addr => Sys2Proof.Machine.execLdaAbs addr s
  | .ldaAbx addr => Sys2Proof.Machine.execLdaAbx addr s
  | .ldaAby addr => Sys2Proof.Machine.execLdaAby addr s
  | .ldaIzx z => Sys2Proof.Machine.execLdaIzx z s
  | .ldaIzy z => Sys2Proof.Machine.execLdaIzy z s
  | .ldxImm n => Sys2Proof.Machine.execLdxImm n s
  | .ldxZp z => Sys2Proof.Machine.execLdxZp z s
  | .ldxZpy z => Sys2Proof.Machine.execLdxZpy z s
  | .ldxAbs addr => Sys2Proof.Machine.execLdxAbs addr s
  | .ldxAby addr => Sys2Proof.Machine.execLdxAby addr s
  | .ldyImm n => Sys2Proof.Machine.execLdyImm n s
  | .ldyZp z => Sys2Proof.Machine.execLdyZp z s
  | .ldyZpx z => Sys2Proof.Machine.execLdyZpx z s
  | .ldyAbs addr => Sys2Proof.Machine.execLdyAbs addr s
  | .ldyAbx addr => Sys2Proof.Machine.execLdyAbx addr s
  | .staZp z => Sys2Proof.Machine.execStaZp z s
  | .staZpx z => Sys2Proof.Machine.execStaZpx z s
  | .staAbs addr => Sys2Proof.Machine.execStaAbs addr s
  | .staAbx addr => Sys2Proof.Machine.execStaAbx addr s
  | .staAby addr => Sys2Proof.Machine.execStaAby addr s
  | .staIzx z => Sys2Proof.Machine.execStaIzx z s
  | .staIzy z => Sys2Proof.Machine.execStaIzy z s
  | .stxZp z => Sys2Proof.Machine.execStxZp z s
  | .stxZpy z => Sys2Proof.Machine.execStxZpy z s
  | .stxAbs addr => Sys2Proof.Machine.execStxAbs addr s
  | .styZp z => Sys2Proof.Machine.execStyZp z s
  | .styZpx z => Sys2Proof.Machine.execStyZpx z s
  | .styAbs addr => Sys2Proof.Machine.execStyAbs addr s
  | .tax => Sys2Proof.Machine.execTax s
  | .tay => Sys2Proof.Machine.execTay s
  | .tsx => Sys2Proof.Machine.execTsx s
  | .txa => Sys2Proof.Machine.execTxa s
  | .txs => Sys2Proof.Machine.execTxs s
  | .tya => Sys2Proof.Machine.execTya s
  | .adcImm n => Sys2Proof.Machine.execAdcImm n s
  | .adcZp z => Sys2Proof.Machine.execAdcZp z s
  | .adcZpx z => Sys2Proof.Machine.execAdcZpx z s
  | .adcAbs addr => Sys2Proof.Machine.execAdcAbs addr s
  | .adcAbx addr => Sys2Proof.Machine.execAdcAbx addr s
  | .adcAby addr => Sys2Proof.Machine.execAdcAby addr s
  | .adcIzx z => Sys2Proof.Machine.execAdcIzx z s
  | .adcIzy z => Sys2Proof.Machine.execAdcIzy z s
  | .sbcImm n => Sys2Proof.Machine.execSbcImm n s
  | .sbcZp z => Sys2Proof.Machine.execSbcZp z s
  | .sbcZpx z => Sys2Proof.Machine.execSbcZpx z s
  | .sbcAbs addr => Sys2Proof.Machine.execSbcAbs addr s
  | .sbcAbx addr => Sys2Proof.Machine.execSbcAbx addr s
  | .sbcAby addr => Sys2Proof.Machine.execSbcAby addr s
  | .sbcIzx z => Sys2Proof.Machine.execSbcIzx z s
  | .sbcIzy z => Sys2Proof.Machine.execSbcIzy z s
  | .andImm n => Sys2Proof.Machine.execAndImm n s
  | .andZp z => Sys2Proof.Machine.execAndZp z s
  | .andZpx z => Sys2Proof.Machine.execAndZpx z s
  | .andAbs addr => Sys2Proof.Machine.execAndAbs addr s
  | .andAbx addr => Sys2Proof.Machine.execAndAbx addr s
  | .andAby addr => Sys2Proof.Machine.execAndAby addr s
  | .andIzx z => Sys2Proof.Machine.execAndIzx z s
  | .andIzy z => Sys2Proof.Machine.execAndIzy z s
  | .oraImm n => Sys2Proof.Machine.execOraImm n s
  | .oraZp z => Sys2Proof.Machine.execOraZp z s
  | .oraZpx z => Sys2Proof.Machine.execOraZpx z s
  | .oraAbs addr => Sys2Proof.Machine.execOraAbs addr s
  | .oraAbx addr => Sys2Proof.Machine.execOraAbx addr s
  | .oraAby addr => Sys2Proof.Machine.execOraAby addr s
  | .oraIzx z => Sys2Proof.Machine.execOraIzx z s
  | .oraIzy z => Sys2Proof.Machine.execOraIzy z s
  | .eorImm n => Sys2Proof.Machine.execEorImm n s
  | .eorZp z => Sys2Proof.Machine.execEorZp z s
  | .eorZpx z => Sys2Proof.Machine.execEorZpx z s
  | .eorAbs addr => Sys2Proof.Machine.execEorAbs addr s
  | .eorAbx addr => Sys2Proof.Machine.execEorAbx addr s
  | .eorAby addr => Sys2Proof.Machine.execEorAby addr s
  | .eorIzx z => Sys2Proof.Machine.execEorIzx z s
  | .eorIzy z => Sys2Proof.Machine.execEorIzy z s
  | .bitZp z => Sys2Proof.Machine.execBitZp z s
  | .bitAbs addr => Sys2Proof.Machine.execBitAbs addr s
  | .cmpImm n => Sys2Proof.Machine.execCmpImm n s
  | .cmpZp z => Sys2Proof.Machine.execCmpZp z s
  | .cmpZpx z => Sys2Proof.Machine.execCmpZpx z s
  | .cmpAbs addr => Sys2Proof.Machine.execCmpAbs addr s
  | .cmpAbx addr => Sys2Proof.Machine.execCmpAbx addr s
  | .cmpAby addr => Sys2Proof.Machine.execCmpAby addr s
  | .cmpIzx z => Sys2Proof.Machine.execCmpIzx z s
  | .cmpIzy z => Sys2Proof.Machine.execCmpIzy z s
  | .cpxImm n => Sys2Proof.Machine.execCpxImm n s
  | .cpxZp z => Sys2Proof.Machine.execCpxZp z s
  | .cpxAbs addr => Sys2Proof.Machine.execCpxAbs addr s
  | .cpyImm n => Sys2Proof.Machine.execCpyImm n s
  | .cpyZp z => Sys2Proof.Machine.execCpyZp z s
  | .cpyAbs addr => Sys2Proof.Machine.execCpyAbs addr s
  | .incZp z => Sys2Proof.Machine.execIncZp z s
  | .incZpx z => Sys2Proof.Machine.execIncZpx z s
  | .incAbs addr => Sys2Proof.Machine.execIncAbs addr s
  | .incAbx addr => Sys2Proof.Machine.execIncAbx addr s
  | .decZp z => Sys2Proof.Machine.execDecZp z s
  | .decZpx z => Sys2Proof.Machine.execDecZpx z s
  | .decAbs addr => Sys2Proof.Machine.execDecAbs addr s
  | .decAbx addr => Sys2Proof.Machine.execDecAbx addr s
  | .inx => Sys2Proof.Machine.execInx s
  | .iny => Sys2Proof.Machine.execIny s
  | .dex => Sys2Proof.Machine.execDex s
  | .dey => Sys2Proof.Machine.execDey s
  | .aslAcc => Sys2Proof.Machine.execAslAcc s
  | .aslZp z => Sys2Proof.Machine.execAslZp z s
  | .aslZpx z => Sys2Proof.Machine.execAslZpx z s
  | .aslAbs addr => Sys2Proof.Machine.execAslAbs addr s
  | .aslAbx addr => Sys2Proof.Machine.execAslAbx addr s
  | .lsrAcc => Sys2Proof.Machine.execLsrAcc s
  | .lsrZp z => Sys2Proof.Machine.execLsrZp z s
  | .lsrZpx z => Sys2Proof.Machine.execLsrZpx z s
  | .lsrAbs addr => Sys2Proof.Machine.execLsrAbs addr s
  | .lsrAbx addr => Sys2Proof.Machine.execLsrAbx addr s
  | .rolAcc => Sys2Proof.Machine.execRolAcc s
  | .rolZp z => Sys2Proof.Machine.execRolZp z s
  | .rolZpx z => Sys2Proof.Machine.execRolZpx z s
  | .rolAbs addr => Sys2Proof.Machine.execRolAbs addr s
  | .rolAbx addr => Sys2Proof.Machine.execRolAbx addr s
  | .rorAcc => Sys2Proof.Machine.execRorAcc s
  | .rorZp z => Sys2Proof.Machine.execRorZp z s
  | .rorZpx z => Sys2Proof.Machine.execRorZpx z s
  | .rorAbs addr => Sys2Proof.Machine.execRorAbs addr s
  | .rorAbx addr => Sys2Proof.Machine.execRorAbx addr s
  | .bcc r => Sys2Proof.Machine.execBcc r s
  | .bcs r => Sys2Proof.Machine.execBcs r s
  | .beq r => Sys2Proof.Machine.execBeq r s
  | .bmi r => Sys2Proof.Machine.execBmi r s
  | .bne r => Sys2Proof.Machine.execBne r s
  | .bpl r => Sys2Proof.Machine.execBpl r s
  | .bvc r => Sys2Proof.Machine.execBvc r s
  | .bvs r => Sys2Proof.Machine.execBvs r s
  | .jmpAbs addr => Sys2Proof.Machine.execJmpAbs addr s
  | .jmpInd ptr => Sys2Proof.Machine.execJmpInd ptr s
  | .jsr addr => Sys2Proof.Machine.execJsr addr s
  | .rts => Sys2Proof.Machine.execRts s
  | .pha => Sys2Proof.Machine.execPha s
  | .php => Sys2Proof.Machine.execPhp s
  | .pla => Sys2Proof.Machine.execPla s
  | .plp => Sys2Proof.Machine.execPlp s
  | .clc => Sys2Proof.Machine.execClc s
  | .cld => Sys2Proof.Machine.execCld s
  | .cli => Sys2Proof.Machine.execCli s
  | .clv => Sys2Proof.Machine.execClv s
  | .sec => Sys2Proof.Machine.execSec s
  | .sed => Sys2Proof.Machine.execSed s
  | .sei => Sys2Proof.Machine.execSei s
  | .nop => Sys2Proof.Machine.execNop s
  | .brk => Sys2Proof.Machine.execBrk s
  | .rti => Sys2Proof.Machine.execRti s
  | .illegal opcode => Sys2Proof.Machine.execIllegal opcode s

end Sys2Proof.Machine
end

