-- ==== Sys2Proof/Machine/Pulse.lean ====
section
/-! DEFINITION. The pulse automaton (spec/40_cpu_engine.md R120–R124, R128–R130): fetching an instruction, one CPU pulse,
`advance_one_cpu_cycle()` (spec/60_exceptions.md R315), and the placing of a word where the next step fetches. -/

namespace Sys2Proof.Machine

/-- A byte at PC, then PC + 1 (R129, R142–R151). PC does not advance when the read faults. -/
def fetchByte (s : State) : Bus Byte := (memRead s.pc s).andThen fun v t => .ok v (t.setPc (t.pc + 1#16))

/-- The immediate operand byte: the resolver advances PC and then `Fetch()` reads the byte (R125, R141), so PC has
advanced also when the read faults. -/
def fetchImmediate (s : State) : Bus Byte := memRead s.pc (s.setPc (s.pc + 1#16))

/-- The operand bytes of a row, in increasing address order, and the instruction they make (R100, R101, R128). -/
def fetchOperands (row : Row) (s : State) : Bus Instr :=
  match row.mode with
  | .imp => .ok (row.build 0#8 0#8) s
  | .imm => (fetchImmediate s).andThen fun n t => .ok (row.build n 0#8) t
  | .zp | .zpx | .zpy | .izx | .izy | .rel => (fetchByte s).andThen fun b t => .ok (row.build b 0#8) t
  | .abs | .abx | .aby | .ind =>
    (fetchByte s).andThen fun l t => (fetchByte t).andThen fun h u => .ok (row.build l h) u

/-- The fetch of an instruction: the opcode, `cycles <- base`, then the operand bytes (R121, R123). After it PC is
past the instruction. -/
def fetchInstr (s : State) : Bus Instr :=
  (fetchByte s).andThen fun o t => fetchOperands (opcodeRow o) (t.setCycles (opcodeRow o).base)

/-- `cycles <- cycles - 1`, the end of a pulse (R121), which a fault prevents (R130). -/
def endPulse (r : Result) : Result :=
  match r with
  | .next s => .next (if s.fault.isSome then s else s.setCycles (s.cycles - 1))
  | .fault f => .fault f
  | .refused q => .refused q

/-- The level of the IRQ line at the coming boundary (R307). -/
def IrqLine.level (l : IrqLine) : Bool := l.levels.headD l.idle

/-- The IRQ line after a boundary. -/
def IrqLine.next (l : IrqLine) : IrqLine := { l with levels := l.levels.tail }

/-- `nmi_pending <- on` (R280, R306). -/
def State.setNmiPending (s : State) (on : Bool) : State := s.setPpu { s.ppu with nmiPending := on }

/-- What an instruction boundary does, NMI first, then IRQ with `P.I = 0`, then the fetch (R121, R308). `line` is the
level of the IRQ line sampled there. -/
def boundary (line : Bool) (s : State) : Result :=
  if s.ppu.nmiPending then finish (interruptEntry .nmi (s.setNmiPending false))
  else if line && !(s.flag .i) then finish (interruptEntry .irq s)
  else
    match fetchInstr s with
    | .ok i t => exec i t
    | .stop t => .next t

/-- `CpuPulse()` (R121, R122): a machine with a fault is halted, a pulse before the first reset is refused, a pulse with
`cycles > 0` only counts down, and any other is an instruction boundary. -/
def cpuPulse (s : State) : Result :=
  match s.fault with
  | some f => .fault f
  | none =>
    if s.cpuReady then
      if s.cycles = 0 then endPulse (boundary s.irq.level (s.setIrq s.irq.next))
      else .next (s.setCycles (s.cycles - 1))
    else .refused .notReset

/-- The PPU pulses of a call that come before its CPU pulse (R315). -/
def leadingPulses (s : State) : State :=
  match s.params.pulseOrder with
  | .ppuFirst => ppuPulses 3 s
  | .cpuFirst => s

/-- The PPU pulses of a call that come after its CPU pulse (R315). -/
def trailingPulses (s : State) : State :=
  match s.params.pulseOrder with
  | .ppuFirst => s
  | .cpuFirst => ppuPulses 3 s

/-- `advance_one_cpu_cycle()`: one CPU pulse and three PPU pulses, in the order `P_PULSE_ORDER` gives (R315, R340). -/
def advance (s : State) : Result :=
  match cpuPulse (leadingPulses s) with
  | .next t => .next (trailingPulses t)
  | .fault f => .fault f
  | .refused q => .refused q

/-- A CPU address where a loader can put a byte: RAM, or program ROM. -/
def placeable (a : Addr) : Bool := decide (a.toNat < 0x2000) || decide (0x8000 ≤ a.toNat)

/-- Put a byte at a placeable address, from outside the machine: into RAM, or into the loaded image. -/
def place (a : Addr) (v : Byte) (s : State) : State :=
  if a.toNat < 0x2000 then s.setRam (s.ram.write (ramIndex a) v)
  else if 0x8000 ≤ a.toNat then s.setCart { s.cart with prg := s.cart.prg.write (prgIndex s.cart a) v }
  else s

/-- Put bytes at an address and the following ones. -/
def placeAll (a : Addr) (vs : List Byte) (s : State) : State :=
  match vs with
  | [] => s
  | v :: vs => placeAll (a + 1#16) vs (place a v s)

/-- The state with its next step a fetch: no fault, reset, an instruction boundary, no NMI pending or about to be raised
before the CPU pulse, and the IRQ line not asserted where it would be taken. What is so already is left as it is. -/
def readyToFetch (s : State) : State :=
  let t := (((s.setFault none).setReady true).setCycles 0).setNmiPending false
  let t := if t.irq.level && !(t.flag .i) then t.setIrq { t.irq with levels := false :: t.irq.levels.tail } else t
  if (leadingPulses t).ppu.nmiPending then t.setPpu { t.ppu with scanline := 0, cycle := 0 } else t

/-- The word `w` of `nbits` bits (bits above it zero, up to three bytes) stored where the next step fetches: at PC, and if one
of its three bytes would not lie in RAM or ROM, at 0x0000, to which PC is set (log entry 15). -/
def placeFetchWord (s : State) (nbits w : Nat) : State :=
  let t := readyToFetch s
  let t :=
    if placeable t.pc && placeable (t.pc + 1#16) && placeable (t.pc + 2#16) then t else t.setPc 0x0000#16
  placeAll t.pc (tableWordBytes nbits w) t

end Sys2Proof.Machine
end

