-- ==== Sys2Proof/Machine/Step.lean ====
section
/-! DEFINITION. One step of the machine, and the host's placing of an instruction word. -/

namespace Sys2Proof.Machine

/-- One step: one call of `advance_one_cpu_cycle()` (spec/60_exceptions.md R315–R317; log entry 3). -/
def step (s : State) : Host.Outcome State Fault Refusal := advance s

/-- `s` with the word placed where the next step fetches. -/
def State.withFetchWord (s : State) (nbits w : Nat) : State := placeFetchWord s nbits w

end Sys2Proof.Machine
end

