-- ==== Sys2Proof/Machine/Cartridge.lean ====
section
/-! DEFINITION. The cartridge image parser (spec/20_memory.md R78–R85): a byte string in the iNES layout gives a
`Cartridge` or a load-time error (spec/60_exceptions.md R303). -/

namespace Sys2Proof.Machine

/-- Why a well-formed image is not admitted (R84). -/
inductive Unsupported where
  | mapper
  | prgUnits
  | chrUnits
  | fourScreen
  deriving DecidableEq, Repr

/-- The load-time errors (R303): `FormatError(BadMagic)`, `FormatError(Truncated)` and
`UnsupportedCartridge(reason)`. -/
inductive LoadError where
  | badMagic
  | truncated
  | unsupported (reason : Unsupported)
  deriving DecidableEq, Repr

/-- The magic constant (R78, R79). -/
def magic : List Byte := [0x4E#8, 0x45#8, 0x53#8, 0x1A#8]

/-- The header byte at an offset. -/
def headerByte (f : List Byte) (k : Nat) : Byte := f.getD k 0x00#8

/-- `mapper = (byte7 & 0xF0) | (byte6 >> 4)` (R80). -/
def mapperId (f : List Byte) : Byte := (headerByte f 7 &&& 0xF0#8) ||| (headerByte f 6 >>> 4)

/-- Where program ROM starts: after the header, and after a trainer if byte 6 bit 2 is set (R81, R82). -/
def prgOffset (f : List Byte) : Nat :=
  Config.headerSize + if (headerByte f 6).getLsbD 2 then Config.trainerSize else 0

/-- `prg_len` (R82). -/
def prgLength (f : List Byte) : Nat := Config.prgUnit * (headerByte f 4).toNat

/-- `chr_len` (R82). -/
def chrLength (f : List Byte) : Nat := Config.chrUnit * (headerByte f 5).toNat

/-- The mirroring mode: byte 6 bit 0, 0 horizontal and 1 vertical (R83). -/
def headerMirroring (f : List Byte) : Mirroring := if (headerByte f 6).getLsbD 0 then .vertical else .horizontal

/-- The first admission check of R84 that fails, in the order of its list (log entry 14). -/
def admission (f : List Byte) : Option Unsupported :=
  if mapperId f ≠ 0x00#8 then some .mapper
  else if headerByte f 4 ≠ 1#8 ∧ headerByte f 4 ≠ 2#8 then some .prgUnits
  else if headerByte f 5 ≠ 1#8 then some .chrUnits
  else if (headerByte f 6).getLsbD 3 then some .fourScreen
  else none

/-- The image that an admitted file holds: exactly the bytes that the header counts, later ones ignored (R82). -/
def imageOf (f : List Byte) : Cartridge :=
  { prgUnits := headerByte f 4
    chrUnits := headerByte f 5
    mapper := mapperId f
    mirroring := headerMirroring f
    prg := Memory.ofBytes ((f.drop (prgOffset f)).take (prgLength f))
    chr := Memory.ofBytes ((f.drop (prgOffset f + prgLength f)).take (chrLength f)) }

/-- `Load(f)` (R82). -/
def load (f : List Byte) : Except LoadError Cartridge :=
  if f.length < Config.headerSize then .error .truncated
  else if f.take 4 ≠ magic then .error .badMagic
  else if f.length < prgOffset f + prgLength f + chrLength f then .error .truncated
  else
    match admission f with
    | some reason => .error (.unsupported reason)
    | none => .ok (imageOf f)

end Sys2Proof.Machine
end

