-- ==== Sys2Proof/Machine/Host.lean ====
section
/-! DEFINITION. The host interface (spec/60_exceptions.md R316): `construct`, `reset()` and the read-only accessors.
`advance_one_cpu_cycle()` is Machine/Pulse.lean's. -/

namespace Sys2Proof.Machine

/-- The parameters `P_INIT_*`: the contents of the memories at construction (R7, R39). -/
structure Init where
  ram : List Byte
  vram : List Byte
  palette : List Byte
  oam : List Byte
  deriving DecidableEq, Repr

/-- The zero contents that `State.reset` takes (log entry 4). -/
def Init.zero : Init := { ram := [], vram := [], palette := [], oam := [] }

/-- `construct(cartridge)` (R39, R330): the memories as `P_INIT_*` give them, the PPU zeroed at (0, 0), no fault, and the
CPU registers "unspecified (not held)", which are free values (log entry 7). -/
def construct (c : Cartridge) (init : Init) (params : Params) (irq : IrqLine) : State :=
  { a := Config.unheldByte 0, x := Config.unheldByte 1, y := Config.unheldByte 2, sp := Config.unheldByte 3
    pc := Config.unheldPc 0, p := Config.unheldByte 4, cycles := Config.unheldCycles 0, cpuReady := false
    ram := Memory.ofBytes (init.ram.take Config.ramSize)
    cart := c
    ppu := Ppu.initial (Memory.ofBytes (init.vram.take Config.vramSize)) (Memory.ofBytes (init.oam.take Config.oamSize))
      (Memory.ofBytes (init.palette.take Config.paletteSize))
    irq := irq, params := params, fault := none, diag := [], freeCount := 0 }

/-- Under `P_RESET_PUSH`, `n` bytes of page 0x0100, at free offsets with free values (R331, log entry 6). -/
def resetPushes : Nat → State → State
  | 0, s => s
  | n + 1, s =>
    let offset := (Config.resetPushOffset s.freeCount).toNat
    let t := s.setRam (s.ram.write (0x100 + offset) (Config.resetPushByte s.freeCount))
    resetPushes n (t.setFreeCount (s.freeCount + 1))

/-- The CPU registers that reset sets outright (R331). -/
def State.resetRegisters (s : State) : State := { s with a := 0x00#8, x := 0x00#8, y := 0x00#8, sp := 0xFD#8, p := 0x20#8 }

/-- `reset()` (R331): no effect on a machine with a fault; else the CPU registers, PC from the reset vector, the cycle
counter 8 with no decrement, and `cpu_ready`. Nothing else changes. -/
def hostReset (s : State) : State :=
  match s.fault with
  | some _ => s
  | none =>
    let t := (if s.params.resetPush then resetPushes 3 s else s).resetRegisters
    match readVector resetVector t with
    | .ok target u => ((u.setPc target).setCycles 8).setReady true
    | .stop u => u

/-! The accessors (R316): the registers, the cycle counter and the PPU registers' stored values are the fields of the
state; RAM and ROM bytes by offset are these, and by CPU address `State.byteAt`. None has a side effect. -/

/-- A RAM byte by offset. -/
def State.ramByte (s : State) (k : Nat) : Byte := s.ram.read k

/-- A program-ROM byte by offset. -/
def State.prgByte (s : State) (k : Nat) : Byte := s.cart.prg.read k

/-- A graphics-ROM byte by offset. -/
def State.chrByte (s : State) (k : Nat) : Byte := s.cart.chr.read k

end Sys2Proof.Machine
end

