-- ==== Sys2Proof/Safety.lean ====
section
/-! DEFINITION. What claims are stated in: the invariant of the machine, the running machine, and the end of a run. -/

namespace Sys2Proof.Machine

/-- The memories are in canonical form and inside their sizes (spec/00_scope.md R6, spec/10_state.md R29–R31). -/
def State.MemoriesWf (s : State) : Prop :=
  s.ram.wf ∧ s.ram.within Config.ramSize ∧
  s.ppu.vram.wf ∧ s.ppu.vram.within Config.vramSize ∧
  s.ppu.oam.wf ∧ s.ppu.oam.within Config.oamSize ∧
  s.ppu.palette.wf ∧ s.ppu.palette.within Config.paletteSize

/-- The cartridge is one that the loader admits (R84), its buffers canonical and of their lengths (R30). -/
def Cartridge.Wf (c : Cartridge) : Prop :=
  (c.prgUnits = 1#8 ∨ c.prgUnits = 2#8) ∧ c.chrUnits = 1#8 ∧ c.mapper = 0x00#8 ∧
  c.prg.wf ∧ c.prg.within (Config.prgUnit * c.prgUnits.toNat) ∧
  c.chr.wf ∧ c.chr.within (Config.chrUnit * c.chrUnits.toNat)

/-- The PPU's ranges: the VRAM address in 0x0000–0x3FFF (R35), the position in its grid (R37), status bits 6:0 zero
(R34). -/
def Ppu.Wf (u : Ppu) : Prop :=
  u.vaddr.toNat < 0x4000 ∧ u.scanline < scanlines ∧ u.cycle < lineCycles ∧ u.status &&& 0x7F#8 = 0x00#8

/-- The CPU's invariants: the stored B is 0 and the stored U is 1 (R24), and the counter is at most 8 (R25). -/
def State.CpuWf (s : State) : Prop := s.flag .b = false ∧ s.flag .u = true ∧ s.cycles ≤ 8

/-- The invariant of the machine after reset. -/
def State.Inv (s : State) : Prop := s.MemoriesWf ∧ s.cart.Wf ∧ s.ppu.Wf ∧ s.CpuWf

/-- A machine that may step: reset, and with no fault (R120). -/
def State.Running (s : State) : Prop := s.cpuReady = true ∧ s.fault = none

/-- An instruction boundary where no interrupt is taken (R121, R308): the next CPU pulse fetches. -/
def State.AtFetch (s : State) : Prop :=
  s.Running ∧ s.cycles = 0 ∧ s.ppu.nmiPending = false ∧ (s.irq.level = false ∨ s.flag .i = true)

/-- The end of a run: a boundary where nothing is taken, with PC at a `JMP abs` to itself (spec/70_reset_and_hazards.md R342). -/
def State.AtEnd (s : State) : Prop :=
  s.AtFetch ∧ s.byteAt s.pc = 0x4C#8 ∧ s.byteAt (s.pc + 1#16) = lo8 s.pc ∧ s.byteAt (s.pc + 2#16) = hi8 s.pc

/-- No diagnostic and no side effect: a CPU address of RAM or program ROM (R67). -/
def PlainAddr (a : Addr) : Prop := a.toNat < 0x2000 ∨ 0x8000 ≤ a.toNat

/-- What a call of `advance_one_cpu_cycle()` makes of the answer of its CPU pulse's instruction: the decrement, which a fault prevents
(spec/40_cpu_engine.md R121, R130), then the PPU pulses that come last (spec/60_exceptions.md R315). -/
def afterExec (answer : Result) : Result :=
  match answer with
  | .next t => .next (trailingPulses (if t.fault.isSome then t else { t with cycles := t.cycles - 1 }))
  | .fault f => .fault f
  | .refused q => .refused q

/-- `t` holds at each flag the value `w` gives it, and else the value `s` has: which flags an instruction writes. -/
def FlagsBecome (s t : State) (w : List (Flag × Bool)) : Prop := ∀ f, t.flag f = (w.lookup f).getD (s.flag f)

/-! The forms of the instructions over an operand, each with the opcode and the base cycles that its rule's operand list gives
(spec/42_load_store_transfer.md to spec/45_branch_jump.md). -/

/-- The reading operations (R160–R162, R180–R188). -/
inductive ReadOp where
  | lda | ldx | ldy | adc | sbc | and | ora | eor | bit | cmp | cpx | cpy
  deriving DecidableEq, Repr

/-- A reading instruction: its operation, its source, its opcode and its base cycles. -/
structure ReadRow where
  op : ReadOp
  src : Source
  opcode : Byte
  base : Nat

/-- The reading instructions, by form. -/
def readsAs (i : Instr) : Option ReadRow :=
  match i with
  | .ldaImm n => some ⟨.lda, .imm n, 0xA9#8, 2⟩
  | .ldaZp z => some ⟨.lda, .mem (.zp z), 0xA5#8, 3⟩
  | .ldaZpx z => some ⟨.lda, .mem (.zpx z), 0xB5#8, 4⟩
  | .ldaAbs addr => some ⟨.lda, .mem (.abs addr), 0xAD#8, 4⟩
  | .ldaAbx addr => some ⟨.lda, .mem (.abx addr), 0xBD#8, 4⟩
  | .ldaAby addr => some ⟨.lda, .mem (.aby addr), 0xB9#8, 4⟩
  | .ldaIzx z => some ⟨.lda, .mem (.izx z), 0xA1#8, 6⟩
  | .ldaIzy z => some ⟨.lda, .mem (.izy z), 0xB1#8, 5⟩
  | .ldxImm n => some ⟨.ldx, .imm n, 0xA2#8, 2⟩
  | .ldxZp z => some ⟨.ldx, .mem (.zp z), 0xA6#8, 3⟩
  | .ldxZpy z => some ⟨.ldx, .mem (.zpy z), 0xB6#8, 4⟩
  | .ldxAbs addr => some ⟨.ldx, .mem (.abs addr), 0xAE#8, 4⟩
  | .ldxAby addr => some ⟨.ldx, .mem (.aby addr), 0xBE#8, 4⟩
  | .ldyImm n => some ⟨.ldy, .imm n, 0xA0#8, 2⟩
  | .ldyZp z => some ⟨.ldy, .mem (.zp z), 0xA4#8, 3⟩
  | .ldyZpx z => some ⟨.ldy, .mem (.zpx z), 0xB4#8, 4⟩
  | .ldyAbs addr => some ⟨.ldy, .mem (.abs addr), 0xAC#8, 4⟩
  | .ldyAbx addr => some ⟨.ldy, .mem (.abx addr), 0xBC#8, 4⟩
  | .adcImm n => some ⟨.adc, .imm n, 0x69#8, 2⟩
  | .adcZp z => some ⟨.adc, .mem (.zp z), 0x65#8, 3⟩
  | .adcZpx z => some ⟨.adc, .mem (.zpx z), 0x75#8, 4⟩
  | .adcAbs addr => some ⟨.adc, .mem (.abs addr), 0x6D#8, 4⟩
  | .adcAbx addr => some ⟨.adc, .mem (.abx addr), 0x7D#8, 4⟩
  | .adcAby addr => some ⟨.adc, .mem (.aby addr), 0x79#8, 4⟩
  | .adcIzx z => some ⟨.adc, .mem (.izx z), 0x61#8, 6⟩
  | .adcIzy z => some ⟨.adc, .mem (.izy z), 0x71#8, 5⟩
  | .sbcImm n => some ⟨.sbc, .imm n, 0xE9#8, 2⟩
  | .sbcZp z => some ⟨.sbc, .mem (.zp z), 0xE5#8, 3⟩
  | .sbcZpx z => some ⟨.sbc, .mem (.zpx z), 0xF5#8, 4⟩
  | .sbcAbs addr => some ⟨.sbc, .mem (.abs addr), 0xED#8, 4⟩
  | .sbcAbx addr => some ⟨.sbc, .mem (.abx addr), 0xFD#8, 4⟩
  | .sbcAby addr => some ⟨.sbc, .mem (.aby addr), 0xF9#8, 4⟩
  | .sbcIzx z => some ⟨.sbc, .mem (.izx z), 0xE1#8, 6⟩
  | .sbcIzy z => some ⟨.sbc, .mem (.izy z), 0xF1#8, 5⟩
  | .andImm n => some ⟨.and, .imm n, 0x29#8, 2⟩
  | .andZp z => some ⟨.and, .mem (.zp z), 0x25#8, 3⟩
  | .andZpx z => some ⟨.and, .mem (.zpx z), 0x35#8, 4⟩
  | .andAbs addr => some ⟨.and, .mem (.abs addr), 0x2D#8, 4⟩
  | .andAbx addr => some ⟨.and, .mem (.abx addr), 0x3D#8, 4⟩
  | .andAby addr => some ⟨.and, .mem (.aby addr), 0x39#8, 4⟩
  | .andIzx z => some ⟨.and, .mem (.izx z), 0x21#8, 6⟩
  | .andIzy z => some ⟨.and, .mem (.izy z), 0x31#8, 5⟩
  | .oraImm n => some ⟨.ora, .imm n, 0x09#8, 2⟩
  | .oraZp z => some ⟨.ora, .mem (.zp z), 0x05#8, 3⟩
  | .oraZpx z => some ⟨.ora, .mem (.zpx z), 0x15#8, 4⟩
  | .oraAbs addr => some ⟨.ora, .mem (.abs addr), 0x0D#8, 4⟩
  | .oraAbx addr => some ⟨.ora, .mem (.abx addr), 0x1D#8, 4⟩
  | .oraAby addr => some ⟨.ora, .mem (.aby addr), 0x19#8, 4⟩
  | .oraIzx z => some ⟨.ora, .mem (.izx z), 0x01#8, 6⟩
  | .oraIzy z => some ⟨.ora, .mem (.izy z), 0x11#8, 5⟩
  | .eorImm n => some ⟨.eor, .imm n, 0x49#8, 2⟩
  | .eorZp z => some ⟨.eor, .mem (.zp z), 0x45#8, 3⟩
  | .eorZpx z => some ⟨.eor, .mem (.zpx z), 0x55#8, 4⟩
  | .eorAbs addr => some ⟨.eor, .mem (.abs addr), 0x4D#8, 4⟩
  | .eorAbx addr => some ⟨.eor, .mem (.abx addr), 0x5D#8, 4⟩
  | .eorAby addr => some ⟨.eor, .mem (.aby addr), 0x59#8, 4⟩
  | .eorIzx z => some ⟨.eor, .mem (.izx z), 0x41#8, 6⟩
  | .eorIzy z => some ⟨.eor, .mem (.izy z), 0x51#8, 5⟩
  | .bitZp z => some ⟨.bit, .mem (.zp z), 0x24#8, 3⟩
  | .bitAbs addr => some ⟨.bit, .mem (.abs addr), 0x2C#8, 4⟩
  | .cmpImm n => some ⟨.cmp, .imm n, 0xC9#8, 2⟩
  | .cmpZp z => some ⟨.cmp, .mem (.zp z), 0xC5#8, 3⟩
  | .cmpZpx z => some ⟨.cmp, .mem (.zpx z), 0xD5#8, 4⟩
  | .cmpAbs addr => some ⟨.cmp, .mem (.abs addr), 0xCD#8, 4⟩
  | .cmpAbx addr => some ⟨.cmp, .mem (.abx addr), 0xDD#8, 4⟩
  | .cmpAby addr => some ⟨.cmp, .mem (.aby addr), 0xD9#8, 4⟩
  | .cmpIzx z => some ⟨.cmp, .mem (.izx z), 0xC1#8, 6⟩
  | .cmpIzy z => some ⟨.cmp, .mem (.izy z), 0xD1#8, 5⟩
  | .cpxImm n => some ⟨.cpx, .imm n, 0xE0#8, 2⟩
  | .cpxZp z => some ⟨.cpx, .mem (.zp z), 0xE4#8, 3⟩
  | .cpxAbs addr => some ⟨.cpx, .mem (.abs addr), 0xEC#8, 4⟩
  | .cpyImm n => some ⟨.cpy, .imm n, 0xC0#8, 2⟩
  | .cpyZp z => some ⟨.cpy, .mem (.zp z), 0xC4#8, 3⟩
  | .cpyAbs addr => some ⟨.cpy, .mem (.abs addr), 0xCC#8, 4⟩
  | _ => none

/-- The operations that report a possible page cross (R103): ADC, AND, CMP, EOR, LDA, LDX, LDY, ORA and SBC. -/
def ReadOp.reportsCross (op : ReadOp) : Bool :=
  match op with
  | .adc | .and | .cmp | .eor | .lda | .ldx | .ldy | .ora | .sbc => true
  | .bit | .cpx | .cpy => false

/-- The register that a storing instruction stores. -/
inductive StoreReg where
  | a | x | y
  deriving DecidableEq, Repr

def StoreReg.value (r : StoreReg) (s : State) : Byte :=
  match r with
  | .a => s.a
  | .x => s.x
  | .y => s.y

/-- A storing instruction: its register, its memory operand, its opcode and its base cycles. -/
structure StoreRow where
  reg : StoreReg
  mem : MemOperand
  opcode : Byte
  base : Nat

/-- The storing instructions, by form (R163–R165). -/
def storesAs (i : Instr) : Option StoreRow :=
  match i with
  | .staZp z => some ⟨.a, .zp z, 0x85#8, 3⟩
  | .staZpx z => some ⟨.a, .zpx z, 0x95#8, 4⟩
  | .staAbs addr => some ⟨.a, .abs addr, 0x8D#8, 4⟩
  | .staAbx addr => some ⟨.a, .abx addr, 0x9D#8, 5⟩
  | .staAby addr => some ⟨.a, .aby addr, 0x99#8, 5⟩
  | .staIzx z => some ⟨.a, .izx z, 0x81#8, 6⟩
  | .staIzy z => some ⟨.a, .izy z, 0x91#8, 6⟩
  | .stxZp z => some ⟨.x, .zp z, 0x86#8, 3⟩
  | .stxZpy z => some ⟨.x, .zpy z, 0x96#8, 4⟩
  | .stxAbs addr => some ⟨.x, .abs addr, 0x8E#8, 4⟩
  | .styZp z => some ⟨.y, .zp z, 0x84#8, 3⟩
  | .styZpx z => some ⟨.y, .zpx z, 0x94#8, 4⟩
  | .styAbs addr => some ⟨.y, .abs addr, 0x8C#8, 4⟩
  | _ => none

/-- The read-modify-write operations (R189, R190, R210–R213). -/
inductive ModifyOp where
  | inc | dec | asl | lsr | rol | ror
  deriving DecidableEq, Repr

/-- A read-modify-write instruction: its operation, its target, its opcode and its base cycles. -/
structure ModifyRow where
  op : ModifyOp
  target : Target
  opcode : Byte
  base : Nat

/-- The read-modify-write instructions, by form. -/
def modifiesAs (i : Instr) : Option ModifyRow :=
  match i with
  | .incZp z => some ⟨.inc, .mem (.zp z), 0xE6#8, 5⟩
  | .incZpx z => some ⟨.inc, .mem (.zpx z), 0xF6#8, 6⟩
  | .incAbs addr => some ⟨.inc, .mem (.abs addr), 0xEE#8, 6⟩
  | .incAbx addr => some ⟨.inc, .mem (.abx addr), 0xFE#8, 7⟩
  | .decZp z => some ⟨.dec, .mem (.zp z), 0xC6#8, 5⟩
  | .decZpx z => some ⟨.dec, .mem (.zpx z), 0xD6#8, 6⟩
  | .decAbs addr => some ⟨.dec, .mem (.abs addr), 0xCE#8, 6⟩
  | .decAbx addr => some ⟨.dec, .mem (.abx addr), 0xDE#8, 7⟩
  | .aslAcc => some ⟨.asl, .acc, 0x0A#8, 2⟩
  | .aslZp z => some ⟨.asl, .mem (.zp z), 0x06#8, 5⟩
  | .aslZpx z => some ⟨.asl, .mem (.zpx z), 0x16#8, 6⟩
  | .aslAbs addr => some ⟨.asl, .mem (.abs addr), 0x0E#8, 6⟩
  | .aslAbx addr => some ⟨.asl, .mem (.abx addr), 0x1E#8, 7⟩
  | .lsrAcc => some ⟨.lsr, .acc, 0x4A#8, 2⟩
  | .lsrZp z => some ⟨.lsr, .mem (.zp z), 0x46#8, 5⟩
  | .lsrZpx z => some ⟨.lsr, .mem (.zpx z), 0x56#8, 6⟩
  | .lsrAbs addr => some ⟨.lsr, .mem (.abs addr), 0x4E#8, 6⟩
  | .lsrAbx addr => some ⟨.lsr, .mem (.abx addr), 0x5E#8, 7⟩
  | .rolAcc => some ⟨.rol, .acc, 0x2A#8, 2⟩
  | .rolZp z => some ⟨.rol, .mem (.zp z), 0x26#8, 5⟩
  | .rolZpx z => some ⟨.rol, .mem (.zpx z), 0x36#8, 6⟩
  | .rolAbs addr => some ⟨.rol, .mem (.abs addr), 0x2E#8, 6⟩
  | .rolAbx addr => some ⟨.rol, .mem (.abx addr), 0x3E#8, 7⟩
  | .rorAcc => some ⟨.ror, .acc, 0x6A#8, 2⟩
  | .rorZp z => some ⟨.ror, .mem (.zp z), 0x66#8, 5⟩
  | .rorZpx z => some ⟨.ror, .mem (.zpx z), 0x76#8, 6⟩
  | .rorAbs addr => some ⟨.ror, .mem (.abs addr), 0x6E#8, 6⟩
  | .rorAbx addr => some ⟨.ror, .mem (.abx addr), 0x7E#8, 7⟩
  | _ => none

/-- A branch: the flag it tests, the value that takes it, its offset byte and its opcode (R221–R228). -/
structure BranchRow where
  flag : Flag
  taken : Bool
  offset : Byte
  opcode : Byte

/-- The branches, by condition. -/
def branchesAs (i : Instr) : Option BranchRow :=
  match i with
  | .bcc r => some ⟨.c, false, r, 0x90#8⟩
  | .bcs r => some ⟨.c, true, r, 0xB0#8⟩
  | .beq r => some ⟨.z, true, r, 0xF0#8⟩
  | .bmi r => some ⟨.n, true, r, 0x30#8⟩
  | .bne r => some ⟨.z, false, r, 0xD0#8⟩
  | .bpl r => some ⟨.n, false, r, 0x10#8⟩
  | .bvc r => some ⟨.v, false, r, 0x50#8⟩
  | .bvs r => some ⟨.v, true, r, 0x70#8⟩
  | _ => none

/-- The opcode byte and the base cycles of an instruction. -/
def HasRow (i : Instr) (opcode : Byte) (base : Nat) : Prop := (encode i).head? = some opcode ∧ i.baseCycles = base

/-- Every byte of RAM in `t` is the one `w` gives it, and else the one it is in `s`: which bytes an instruction stores. -/
def RamBecomes (s t : State) (w : List (Nat × Byte)) : Prop := ∀ k, t.ramByte k = (w.lookup k).getD (s.ramByte k)

/-- The RAM offset of the stack byte that an SP value addresses (R21). -/
def stackIndex (sp : Byte) : Nat := 0x100 + sp.toNat

/-- What a reading instruction of operation `op` does, for every form of it (spec/40_cpu_engine.md R125, R131, spec/30_encoding.md
R103): its opcode and base cycles are those of its rule; when the operand read delivers `v` in the state `u`, the
instruction completes in a state `t` with `effect v u t`, at one cycle more when the operand crosses a page and the operation
reports it; and when the operand read faults, nothing after it happens (the spec's decision D18; exec answers the state with the fault
recorded, log entry 2). The last clause is the immediate form and the form
whose operand lies in RAM or ROM, which complete whatever the state. -/
def ReadsWith (op : ReadOp) (effect : Byte → State → State → Prop) : Prop :=
  ∀ i r s, readsAs i = some r → r.op = op →
    HasRow i r.opcode r.base ∧
    (match r.src.fetch s with
      | .ok v u =>
        ∃ t, exec i s = .next t ∧ effect v u t ∧
          t.cycles = u.cycles + (if op.reportsCross && r.src.crosses s then 1 else 0)
      | .stop u => exec i s = .next u) ∧
    match r.src with
    | .imm n => ∃ t, exec i s = .next t ∧ effect n s t ∧ t.cycles = s.cycles
    | .mem m =>
      PlainAddr (m.ea s) → ∃ t, exec i s = .next t ∧ effect (s.byteAt (m.ea s)) s t ∧
        t.cycles = s.cycles + (if op.reportsCross && m.crosses s then 1 else 0)

/-- What a read-modify-write instruction of operation `op` does, for every form of it (spec/43_alu.md R189, spec/44_shift_rotate.md):
`result c m` is written back, `c` the carry before and `m` the byte read, and the flags become `flags m r`, `r` the
result; a read or a write that faults ends the instruction before the flags are written (the spec's decision D18; exec answers the state
with the fault recorded, log entry 2). The last clause is the form
whose operand lies in RAM. -/
def ModifiesWith (op : ModifyOp) (result : Bool → Byte → Byte) (flags : Byte → Byte → List (Flag × Bool)) : Prop :=
  ∀ i r s, modifiesAs i = some r → r.op = op →
    HasRow i r.opcode r.base ∧
    match r.target with
    | .acc =>
      ∃ t, exec i s = .next t ∧ t.a = result (s.flag .c) s.a ∧ FlagsBecome s t (flags s.a t.a) ∧
        t = { s with a := t.a, p := t.p }
    | .mem m =>
      (match memRead (m.ea s) s with
        | .stop u => exec i s = .next u
        | .ok v u =>
          match memWrite (m.ea s) (result (s.flag .c) v) u with
          | .stop w => exec i s = .next w
          | .ok _ w =>
            ∃ t, exec i s = .next t ∧ FlagsBecome w t (flags v (result (s.flag .c) v)) ∧ t = { w with p := t.p }) ∧
      ((m.ea s).toNat < 0x2000 → s.ram.wf = true →
        ∃ t, exec i s = .next t ∧
          (let v := s.byteAt (m.ea s)
           let r := result (s.flag .c) v
           RamBecomes s t [((m.ea s).toNat % 0x800, r)] ∧ FlagsBecome s t (flags v r)) ∧
          t = { s with ram := t.ram, p := t.p })

end Sys2Proof.Machine
end

