-- ==== Sys2Proof/Certificates/Slice0/Obligations.lean ====
section
/-! DEFINITION. The statements for the provers. Each docstring says which rule of the spec it formalises. -/

open Sys2Proof Sys2Proof.Machine

/-! ### Encoding -/

/-- spec/30_encoding.md R100–R105: decoding the bytes of a well-formed instruction, whatever follows them, gives it back with every
operand. -/
def Obligations.DecodeOfEncodeIsTheInstruction : Prop :=
  ∀ (i : Instr) (rest : List Byte), i.wf = true → decode (encode i ++ rest) = .ok (i, rest)

/-- spec/30_encoding.md R100–R105: what is decoded is well-formed, and its bytes are exactly the bytes consumed: no bit is dropped and
two different byte strings are never one instruction. -/
def Obligations.DecodedBytesEncodeBack : Prop :=
  ∀ (bytes : List Byte) (i : Instr) (rest : List Byte), decode bytes = .ok (i, rest) →
    i.wf = true ∧ encode i ++ rest = bytes

/-- spec/30_encoding.md R104 and spec/46_stack_status_system.md R254: an opcode of the list of 105 has the entry (ILLEGAL, IMP, 2), and executing it
raises `IllegalOpcode` with the opcode and the address before PC; the row of every other opcode builds no illegal instruction.
(That the 105 opcodes fault is the spec's decision D1; that they are one constructor is log entry 1, that exec answers a next state
with the fault recorded is log entry 2.) -/
def Obligations.IllegalOpcodesHalt : Prop :=
  ∀ o : Byte,
    (isIllegalOpcode o = true → (opcodeRow o).mode = .imp ∧ (opcodeRow o).base = 2 ∧
      (∀ rest, decode (o :: rest) = .ok (.illegal o, rest)) ∧
      ∀ s : State, exec (.illegal o) s = .next { s with fault := some (.illegalOpcode o (s.pc - 1#16)) }) ∧
    (isIllegalOpcode o = false → ∀ b c o', (opcodeRow o).build b c ≠ .illegal o')

/-- spec/30_encoding.md R101 and R102, a few words written out from their patterns and opcodes: `A9 80`, `4C 34 12`, `00`, `6C FF 02`, `D0 FA`
and `91 20`. A sanity statement. -/
def Obligations.WrittenOutWordsDecode : Prop :=
  decode [0b10101001#8, 0b10000000#8] = .ok (.ldaImm 0x80#8, []) ∧
  decode [0b01001100#8, 0b00110100#8, 0b00010010#8] = .ok (.jmpAbs 0x1234#16, []) ∧
  decode [0b00000000#8] = .ok (.brk, []) ∧
  decode [0b01101100#8, 0b11111111#8, 0b00000010#8] = .ok (.jmpInd 0x02FF#16, []) ∧
  decode [0b11010000#8, 0b11111010#8] = .ok (.bne 0xFA#8, []) ∧
  decode [0b10010001#8, 0b00100000#8] = .ok (.staIzy 0x20#8, [])

/-! ### The engine -/

/-- spec/40_cpu_engine.md R121, R129: when, after the PPU pulses that come first in the call, the CPU is at a boundary that fetches, and the bytes
at PC decode to `i` and lie in RAM or ROM, one step is `exec i` with PC past the bytes of `i` and `cycles` its base count, then
the decrement (which a fault prevents), then the PPU pulses that come last. The boundary also takes one level off the IRQ line's
list, which is the model's own (log entry 9).
(That one step is one call of `advance_one_cpu_cycle` is log entry 3, that a faulting step answers a next state log entry 2.) -/
def Obligations.StepRunsDecodedInstruction : Prop :=
  ∀ (s : State) (i : Instr) (rest : List Byte),
    let u := leadingPulses s
    u.AtFetch →
    decode [u.byteAt u.pc, u.byteAt (u.pc + 1#16), u.byteAt (u.pc + 2#16)] = .ok (i, rest) →
    (∀ k, k < (encode i).length → PlainAddr (u.pc + BitVec.ofNat 16 k)) →
    step s =
      match exec i { u with pc := u.pc + BitVec.ofNat 16 (encode i).length, cycles := i.baseCycles, irq := u.irq.next } with
      | .next t => .next (trailingPulses (if t.fault.isSome then t else { t with cycles := t.cycles - 1 }))
      | .fault f => .fault f
      | .refused q => .refused q

/-- spec/40_cpu_engine.md R121, R129 and R130, spec/20_memory.md R76: the fetch at a boundary wherever the instruction's bytes lie. An opcode read that
faults (at a write-only PPU register, or for any other reason) ends the pulse with PC and `cycles` (0) as they were; an opcode read in
0x4000–0x7FFF gives 0x00, which is BRK, and its diagnostic; an operand-byte read that faults leaves `cycles` at the base count
and PC as far as it has advanced, which is past the byte in the immediate mode (spec/41_addressing.md R141) and at it in the others; and
when the reads deliver, the instruction of the bytes read is executed. Operand bytes are read after the opcode, the first before the
second. (That a fault ends the pulse so is the spec's decision D18. That the faulting step answers a next state is log entry 2, that the IRQ list
loses a level log entry 9, that the operand bytes are read before exec log entry 10, that the diagnostic is kept log entry 12.) -/
def Obligations.FetchesThroughTheBus : Prop :=
  ∀ s : State,
    let u := leadingPulses s
    let r := { u with irq := u.irq.next }
    u.AtFetch →
    (0x2000 ≤ u.pc.toNat → u.pc.toNat < 0x4000 →
      (u.pc.toNat % 8 = 0 ∨ u.pc.toNat % 8 = 1 ∨ u.pc.toNat % 8 = 6) →
      step s = .next { r with fault := some (.readWriteOnly u.pc) }) ∧
    (0x4000 ≤ u.pc.toNat → u.pc.toNat < 0x8000 →
      step s = afterExec (exec .brk
        { r with pc := u.pc + 1#16, cycles := 7, diag := r.diag ++ [.unmappedRead u.pc] })) ∧
    match memRead u.pc r with
    | .stop v => v.fault.isSome = true ∧ step s = .next { r with fault := v.fault }
    | .ok o v =>
      let row := opcodeRow o
      let w := { v with pc := u.pc + 1#16, cycles := row.base }
      (row.mode.operandBytes = 0 → step s = afterExec (exec (row.build 0x00#8 0x00#8) w)) ∧
      (row.mode.operandBytes = 1 →
        let x := if row.mode = .imm then { w with pc := u.pc + 2#16 } else w
        match memRead (u.pc + 1#16) x with
        | .stop y => y.fault.isSome = true ∧ step s = .next { x with fault := y.fault }
        | .ok b y => step s = afterExec (exec (row.build b 0x00#8) { y with pc := u.pc + 2#16 })) ∧
      (row.mode.operandBytes = 2 →
        match memRead (u.pc + 1#16) w with
        | .stop y => y.fault.isSome = true ∧ step s = .next { w with fault := y.fault }
        | .ok l y =>
          let z := { y with pc := u.pc + 2#16 }
          match memRead (u.pc + 2#16) z with
          | .stop q => q.fault.isSome = true ∧ step s = .next { z with fault := q.fault }
          | .ok h q => step s = afterExec (exec (row.build l h) { q with pc := u.pc + 3#16 }))

/-- spec/40_cpu_engine.md R122: a pulse with `cycles > 0` changes nothing except `cycles`, whatever interrupt is present.
(That interrupts are not sampled is the spec's decision D7.) -/
def Obligations.ExecutingPulseOnlyCountsDown : Prop :=
  ∀ s : State, s.Running → 0 < s.cycles → cpuPulse s = .next { s with cycles := s.cycles - 1 }

/-- spec/60_exceptions.md R309 and R310: at a boundary with NMI-pending set, whatever the IRQ line and I, the pulse clears
NMI-pending, pushes PC high, PC low and the status byte with B = 0 and U = 1, sets I and U and clears B, loads PC from 0xFFFA/0xFFFB, and leaves 7 of the
8 cycles; nothing else changes. (The IRQ line's list loses one level, log entry 9.)
(The spec marks the pushed and the new I its decision D10, and R310 as derived.) -/
def Obligations.NmiEntry : Prop :=
  ∀ s : State, s.Running → s.cycles = 0 → s.ppu.nmiPending = true → s.ram.wf = true →
    ∃ (t : State) (pushed : Byte), cpuPulse s = .next t ∧
      (∀ f, getFlag pushed f = if f = .b then false else if f = .u then true else s.flag f) ∧
      RamBecomes s t [(stackIndex s.sp, hi8 s.pc), (stackIndex (s.sp - 1#8), lo8 s.pc), (stackIndex (s.sp - 2#8), pushed)] ∧
      FlagsBecome s t [(.b, false), (.u, true), (.i, true)] ∧
      t.pc = hiLo (s.byteAt 0xFFFB#16) (s.byteAt 0xFFFA#16) ∧ t.sp = s.sp - 3#8 ∧ t.cycles = 7 ∧
      t = { s with ram := t.ram, p := t.p, pc := t.pc, sp := t.sp, cycles := t.cycles, irq := s.irq.next,
                   ppu := { s.ppu with nmiPending := false } }

/-- spec/60_exceptions.md R309 and R311: at a boundary with no NMI pending, the IRQ line asserted and I = 0, the pulse makes the same entry
through 0xFFFE/0xFFFF and leaves 6 of the 7 cycles. (The IRQ line's list loses one level, log entry 9.)
(The spec marks the pushed and the new I its decision D10, and R311 as derived.) -/
def Obligations.IrqEntry : Prop :=
  ∀ s : State, s.Running → s.cycles = 0 → s.ppu.nmiPending = false → s.irq.level = true → s.flag .i = false →
    s.ram.wf = true →
    ∃ (t : State) (pushed : Byte), cpuPulse s = .next t ∧
      (∀ f, getFlag pushed f = if f = .b then false else if f = .u then true else s.flag f) ∧
      RamBecomes s t [(stackIndex s.sp, hi8 s.pc), (stackIndex (s.sp - 1#8), lo8 s.pc), (stackIndex (s.sp - 2#8), pushed)] ∧
      FlagsBecome s t [(.b, false), (.u, true), (.i, true)] ∧
      t.pc = hiLo (s.byteAt 0xFFFF#16) (s.byteAt 0xFFFE#16) ∧ t.sp = s.sp - 3#8 ∧ t.cycles = 6 ∧
      t = { s with ram := t.ram, p := t.p, pc := t.pc, sp := t.sp, cycles := t.cycles, irq := s.irq.next }

/-- spec/40_cpu_engine.md R120, with spec/60_exceptions.md R301 and R302: once a fault is recorded neither the CPU nor the PPU has a step and `reset()` does not clear it
(that the step answers `fault` is how the model says "no step", log entry 2); before the first `reset()` a CPU pulse is refused, and the PPU may
be pulsed.
(The halt and the refusal are the spec's decisions D18 and D13.) -/
def Obligations.PulsesWithoutAStep : Prop :=
  ∀ s : State,
    (∀ f, s.fault = some f → step s = .fault f ∧ cpuPulse s = .fault f ∧ ppuPulse s = s ∧ hostReset s = s) ∧
    (s.fault = none → s.cpuReady = false →
      cpuPulse s = .refused .notReset ∧ step s = .refused .notReset ∧ ppuPulse s = { s with ppu := s.ppu.tick })

/-- Every step keeps the invariant: memories canonical and inside their sizes, the cartridge admitted, the VRAM address in
0x0000–0x3FFF (spec/10_state.md R35), the PPU position in its grid (R37), status bits 6:0 zero (R34), the stored B 0 and the stored U 1 (R24), and the
counter at most 8 (R25).
(R24 is marked as derived in the spec; the canonical form of the memories is the model's.) -/
def Obligations.EveryStepKeepsInvariant : Prop :=
  ∀ s t : State, s.Inv → step s = .next t → t.Inv

/-- The machine right after reset meets the invariant.
(Its memories, cartridge and parameters are the model's choices, log entries 4, 5 and 8.) -/
def Obligations.ResetStateMeetsInvariant : Prop := State.reset.Inv

/-- spec/10_state.md R40 and spec/70_reset_and_hazards.md R331 without `P_RESET_PUSH`: reset sets A, X, Y, SP, P, PC from the vector, `cycles` and `cpu_ready`,
and changes nothing else; with it, only page 1 of RAM may change as well (and the model's count of free values, log entry 6).
(What reset leaves alone, and the push, are the spec's decisions D14 and D12.) -/
def Obligations.ResetSetsTheCpuOnly : Prop :=
  ∀ s : State, s.fault = none →
    let vector := hiLo (s.byteAt 0xFFFD#16) (s.byteAt 0xFFFC#16)
    (s.params.resetPush = false →
      hostReset s = { s with a := 0x00#8, x := 0x00#8, y := 0x00#8, sp := 0xFD#8, p := 0x20#8, pc := vector, cycles := 8,
                             cpuReady := true }) ∧
    (s.params.resetPush = true →
      hostReset s = { s with a := 0x00#8, x := 0x00#8, y := 0x00#8, sp := 0xFD#8, p := 0x20#8, pc := vector, cycles := 8,
                             cpuReady := true, ram := (hostReset s).ram, freeCount := (hostReset s).freeCount } ∧
      ∀ k, k < 0x100 ∨ 0x200 ≤ k → (hostReset s).ramByte k = s.ramByte k)

/-- spec/10_state.md R39: the machine that `construct` gives.
(The PPU's values are the spec's decision D15; a `P_INIT_*` list shorter than its memory is filled with the unlisted byte, log entry 4.) -/
def Obligations.ConstructedMachine : Prop :=
  ∀ (c : Cartridge) (init : Init) (params : Params) (irq : IrqLine),
    let s := construct c init params irq
    s.cpuReady = false ∧ s.cart = c ∧ s.fault = none ∧
    (∀ k, k < 2048 → s.ramByte k = init.ram.getD k unlistedByte) ∧
    (∀ k, k < 2048 → s.ppu.vram.read k = init.vram.getD k unlistedByte) ∧
    (∀ k, k < 32 → s.ppu.palette.read k = init.palette.getD k unlistedByte) ∧
    (∀ k, k < 256 → s.ppu.oam.read k = init.oam.getD k unlistedByte) ∧
    s.ppu.ctrl = 0x00#8 ∧ s.ppu.mask = 0x00#8 ∧ s.ppu.status = 0x00#8 ∧ s.ppu.vaddr = 0x0000#16 ∧ s.ppu.w = false ∧
    s.ppu.rbuf = 0x00#8 ∧ s.ppu.scanline = 0 ∧ s.ppu.cycle = 0 ∧ s.ppu.nmiPending = false

/-- spec/20_memory.md R82 and spec/70_reset_and_hazards.md R333: a machine booted from a loaded image meets the invariant, whatever the other parameters.
(The invariant is the model's.) -/
def Obligations.BootedMachineMeetsInvariant : Prop :=
  ∀ (f : List Byte) (c : Cartridge) (init : Init) (params : Params) (irq : IrqLine), load f = .ok c →
    (hostReset (construct c init params irq)).Inv

/-- spec/70_reset_and_hazards.md R332: after `reset()` the next 8 calls are idle for the CPU, 24 PPU pulses pass, and the counter is 0.
(The spec marks R332 as derived.) -/
def Obligations.ResetIsFollowedByEightIdlePulses : Prop :=
  ∀ s : State, s.fault = none →
    Sys2Proof.core.run 8 (hostReset s) =
      .next { hostReset s with cycles := 0, ppu := (ppuPulses 24 (hostReset s)).ppu }

/-- No step changes the cartridge (spec/10_state.md R30: "Built once at load; never mutated"), OAM (spec/50_ppu.md R279), or the fixed
parameters, and none clears `cpu_ready`. -/
def Obligations.StepsNeverChangeCartridgeOrOam : Prop :=
  ∀ s t : State, step s = .next t →
    t.cart = s.cart ∧ t.ppu.oam = s.ppu.oam ∧ t.params = s.params ∧ t.cpuReady = s.cpuReady

/-- Every instruction answers a next state, and none changes the PPU's position or NMI-pending (spec/50_ppu.md R261: the pulse at
(241, 1) is the only place NMI-pending is raised), the cartridge, OAM, the IRQ line, the parameters or `cpu_ready`.
(That an instruction whose access faults answers a next state too is log entry 2; the count of free values is the model's own, log entry 6.) -/
def Obligations.InstructionsLeaveTimingAndInterrupts : Prop :=
  ∀ (i : Instr) (s : State), ∃ t, exec i s = .next t ∧
    t.ppu.scanline = s.ppu.scanline ∧ t.ppu.cycle = s.ppu.cycle ∧ t.ppu.nmiPending = s.ppu.nmiPending ∧
    t.ppu.oam = s.ppu.oam ∧ t.cart = s.cart ∧ t.irq = s.irq ∧ t.params = s.params ∧ t.cpuReady = s.cpuReady ∧
    t.freeCount = s.freeCount

/-! ### The PPU's timing -/

/-- spec/50_ppu.md R264: from any position 89,342 pulses return to it; from (0, 0) with vblank and NMI-pending clear, vblank is set in pulse
82,183 and cleared by the wrap in pulse 89,342, and NMI-pending is raised in pulse 82,183 iff `ctrl[7] = 1`.
(The spec marks R264 as derived, and the pulse in which a position's events fire as its decision D41.) -/
def Obligations.FrameTiming : Prop :=
  ∀ s : State, s.fault = none → s.ppu.scanline < 262 → s.ppu.cycle < 341 →
    ((ppuPulses 89342 s).ppu.scanline = s.ppu.scanline ∧ (ppuPulses 89342 s).ppu.cycle = s.ppu.cycle) ∧
    (s.ppu.scanline = 0 → s.ppu.cycle = 0 → s.ppu.status.getLsbD 7 = false → s.ppu.nmiPending = false →
      (∀ n, n < 89342 →
        let u := (ppuPulses n s).ppu
        u.scanline = n / 341 ∧ u.cycle = n % 341 ∧ u.status.getLsbD 7 = decide (82183 ≤ n) ∧
        u.nmiPending = (s.ppu.ctrl.getLsbD 7 && decide (82183 ≤ n))) ∧
      (ppuPulses 89342 s).ppu.status.getLsbD 7 = false ∧
      (ppuPulses 89342 s).ppu.nmiPending = s.ppu.ctrl.getLsbD 7)

/-- spec/50_ppu.md R260–R263: a PPU pulse moves the position to the next of the 262 × 341 grid, sets vblank, and NMI-pending if enabled, at (241, 1), clears
vblank at the wrap, and changes nothing else; away from (241, 1) NMI-pending stays as it is.
(The pulse in which the events fire, and that the hooks change nothing, are the spec's decisions D41 and D40.) -/
def Obligations.PpuPulseChangesOnlyTimingState : Prop :=
  ∀ s : State, s.fault = none →
    ∃ (status : Byte) (scanline cycle : Nat) (nmi : Bool),
      ppuPulse s = { s with ppu := { s.ppu with status := status, scanline := scanline, cycle := cycle, nmiPending := nmi } } ∧
      (∀ k, k ≠ 7 → status.getLsbD k = s.ppu.status.getLsbD k) ∧
      (s.ppu.cycle ≠ 340 → scanline = s.ppu.scanline ∧ cycle = s.ppu.cycle + 1) ∧
      (s.ppu.cycle = 340 → s.ppu.scanline ≠ 261 → scanline = s.ppu.scanline + 1 ∧ cycle = 0) ∧
      (s.ppu.scanline = 241 ∧ s.ppu.cycle = 1 →
        status.getLsbD 7 = true ∧ nmi = (s.ppu.nmiPending || s.ppu.ctrl.getLsbD 7)) ∧
      (¬(s.ppu.scanline = 241 ∧ s.ppu.cycle = 1) → nmi = s.ppu.nmiPending) ∧
      (s.ppu.scanline = 261 ∧ s.ppu.cycle = 340 → status.getLsbD 7 = false ∧ scanline = 0 ∧ cycle = 0) ∧
      (¬(s.ppu.scanline = 241 ∧ s.ppu.cycle = 1) → ¬(s.ppu.scanline = 261 ∧ s.ppu.cycle = 340) → status = s.ppu.status)

/-! ### The Bus -/

/-- spec/20_memory.md R63: a byte written to RAM is read back at that address and at every mirror of it, and every other RAM address reads as before. -/
def Obligations.RamReadsLastWriteThroughMirrors : Prop :=
  ∀ (s : State) (a : Addr) (v : Byte), a.toNat < 0x2000 → s.ram.wf = true →
    ∃ t, memWrite a v s = .ok () t ∧ t = { s with ram := t.ram } ∧ t.ram.wf = true ∧
      ∀ b : Addr, b.toNat < 0x2000 →
        memRead b t = .ok (if b.toNat % 0x800 = a.toNat % 0x800 then v else s.byteAt b) t ∧
        memRead b s = .ok (s.byteAt b) s

/-- spec/20_memory.md R65: the program-ROM window reads the image, a 16 KB one at `addr & 0x3FFF` so that 0x8000 + k and 0xC000 + k are one byte, a 32 KB
one at `addr & 0x7FFF`; a read changes nothing, and a write faults (the window is read-only). -/
def Obligations.ProgramRomWindow : Prop :=
  ∀ (s : State) (a : Addr), 0x8000 ≤ a.toNat →
    (∀ v, memWrite a v s = .stop { s with fault := some (.romWrite a) }) ∧
    (s.cart.prgUnits = 1#8 → memRead a s = .ok (s.prgByte (a.toNat % 0x4000)) s) ∧
    (s.cart.prgUnits = 2#8 → memRead a s = .ok (s.prgByte (a.toNat - 0x8000)) s) ∧
    (s.cart.prgUnits = 1#8 → ∀ k, k < 0x4000 →
      memRead (BitVec.ofNat 16 (0x8000 + k)) s = .ok (s.prgByte k) s ∧
      memRead (BitVec.ofNat 16 (0xC000 + k)) s = .ok (s.prgByte k) s)

/-- spec/20_memory.md R66: in 0x4000–0x7FFF a read returns 0x00 and a write changes nothing; each records a diagnostic, which is all that is
added.
(That a diagnostic is an entry appended to a field of the state is the model's choice, log entry 12.) -/
def Obligations.UnmappedRangeOnlyRecords : Prop :=
  ∀ (s : State) (a : Addr) (v : Byte), 0x4000 ≤ a.toNat → a.toNat < 0x8000 →
    memRead a s = .ok 0x00#8 { s with diag := s.diag ++ [.unmappedRead a] } ∧
    memWrite a v s = .ok () { s with diag := s.diag ++ [.unmappedWrite a v] }

/-- spec/60_exceptions.md R300 code 2, the CPU side (spec/20_memory.md R62): a write to 0x8000–0xFFFF raises `ProtocolViolation(RomWrite, addr)` and changes nothing
else.
(The typed fault is the spec's decision D18.) -/
def Obligations.WriteToRomFaults : Prop :=
  ∀ (s : State) (a : Addr) (v : Byte), 0x8000 ≤ a.toNat →
    memWrite a v s = .stop { s with fault := some (.romWrite a) }

/-- spec/20_memory.md R64: the eight PPU registers are mirrored every 8 bytes: at two addresses of the window with the same low three bits
every access that is not a direction violation (R272, which records the address) does the same. -/
def Obligations.PpuRegistersMirror : Prop :=
  ∀ (s : State) (a b : Addr) (v : Byte), 0x2000 ≤ a.toNat → a.toNat < 0x4000 → 0x2000 ≤ b.toNat → b.toNat < 0x4000 →
    a.toNat % 8 = b.toNat % 8 →
    (a.toNat % 8 ≠ 2 → memWrite a v s = memWrite b v s) ∧
    (a.toNat % 8 ≠ 0 ∧ a.toNat % 8 ≠ 1 ∧ a.toNat % 8 ≠ 6 → memRead a s = memRead b s)

/-- spec/50_ppu.md R266 and R267: a control write and a mask write store the byte and change nothing else. -/
def Obligations.ControlAndMaskWritesStore : Prop :=
  ∀ (s : State) (a : Addr) (v : Byte), 0x2000 ≤ a.toNat → a.toNat < 0x4000 →
    (a.toNat % 8 = 0 → memWrite a v s = .ok () { s with ppu := { s.ppu with ctrl := v } }) ∧
    (a.toNat % 8 = 1 → memWrite a v s = .ok () { s with ppu := { s.ppu with mask := v } })

/-- spec/50_ppu.md R268: a status read returns bits 7:5 of status as they were and the low five bits of the read buffer, clears vblank and resets the
latch; NMI-pending and everything else is unchanged.
(The low bits, the order and NMI-pending are the spec's decision D21.) -/
def Obligations.StatusRead : Prop :=
  ∀ (s : State) (a : Addr), 0x2000 ≤ a.toNat → a.toNat < 0x4000 → a.toNat % 8 = 2 →
    ∃ (v status : Byte),
      memRead a s = .ok v { s with ppu := { s.ppu with status := status, w := false } } ∧
      (∀ k, v.getLsbD k = if k < 5 then s.ppu.rbuf.getLsbD k else s.ppu.status.getLsbD k) ∧
      status.getLsbD 7 = false ∧ ∀ k, k ≠ 7 → status.getLsbD k = s.ppu.status.getLsbD k

/-- spec/50_ppu.md R269: with the latch reset a write replaces the high byte of the VRAM address, masked to 0x3FFF, and keeps its low byte; with the latch set
it replaces the low byte; each toggles the latch, so a pair of writes leaves the 14-bit address and the latch reset.
(What the first write stores is the spec's decision D22.) -/
def Obligations.VramAddressWrites : Prop :=
  ∀ (s : State) (a : Addr) (v lo : Byte), 0x2000 ≤ a.toNat → a.toNat < 0x4000 → a.toNat % 8 = 6 →
    ∃ x : Addr, memWrite a v s = .ok () { s with ppu := { s.ppu with vaddr := x, w := !s.ppu.w } } ∧
      (s.ppu.w = false → x.toNat = (v.toNat % 64) * 256 + s.ppu.vaddr.toNat % 256 ∧
        ∃ y : Addr, memWrite a lo { s with ppu := { s.ppu with vaddr := x, w := true } } =
            .ok () { s with ppu := { s.ppu with vaddr := y, w := false } } ∧
          y.toNat = (v.toNat % 64) * 256 + lo.toNat) ∧
      (s.ppu.w = true → x.toNat = (s.ppu.vaddr.toNat / 256 % 64) * 256 + v.toNat)

/-- spec/50_ppu.md R270 and R274: a VRAM data read returns the read buffer and refills it from the pattern ROM or a nametable, or returns a palette byte
directly and loads it too; the VRAM address advances by 1 or 32 modulo 0x4000; in 0x3000–0x3EFF it raises `PpuUnmapped` and changes nothing
else.
(That a palette read loads the buffer is the spec's decision D23.) -/
def Obligations.VramDataRead : Prop :=
  ∀ (s : State) (a : Addr), 0x2000 ≤ a.toNat → a.toNat < 0x4000 → a.toNat % 8 = 7 → s.ppu.vaddr.toNat < 0x4000 →
    let n := s.ppu.vaddr.toNat
    let inc := if s.ppu.ctrl.getLsbD 2 then 32 else 1
    let after := fun (b : Byte) =>
      { s with ppu := { s.ppu with rbuf := b, vaddr := BitVec.ofNat 16 ((n + inc) % 0x4000) } }
    (n < 0x2000 → memRead a s = .ok s.ppu.rbuf (after (s.chrByte n))) ∧
    (0x2000 ≤ n → n < 0x3000 →
      memRead a s = .ok s.ppu.rbuf (after (s.ppu.vram.read (ntIndex s.cart.mirroring n)))) ∧
    (0x3000 ≤ n → n < 0x3F00 → memRead a s = .stop { s with fault := some (.ppuUnmapped s.ppu.vaddr) }) ∧
    (0x3F00 ≤ n →
      memRead a s = .ok (s.ppu.palette.read (palIndex n)) (after (s.ppu.palette.read (palIndex n))))

/-- spec/50_ppu.md R271 and R275: a VRAM data write stores into a nametable or the palette, every other byte of both as before, and the VRAM address
advances; the read buffer is unchanged; the pattern ROM raises `RomWrite` and 0x3000–0x3EFF `PpuUnmapped`.
(The two faults of a write are the spec's decisions D25 and D26.) -/
def Obligations.VramDataWrite : Prop :=
  ∀ (s : State) (a : Addr) (v : Byte), 0x2000 ≤ a.toNat → a.toNat < 0x4000 → a.toNat % 8 = 7 →
    s.ppu.vaddr.toNat < 0x4000 → s.ppu.vram.wf = true → s.ppu.palette.wf = true →
    let n := s.ppu.vaddr.toNat
    let inc := if s.ppu.ctrl.getLsbD 2 then 32 else 1
    let next := BitVec.ofNat 16 ((n + inc) % 0x4000)
    (n < 0x2000 → memWrite a v s = .stop { s with fault := some (.romWrite s.ppu.vaddr) }) ∧
    (0x2000 ≤ n → n < 0x3000 → ∃ m : Memory,
      memWrite a v s = .ok () { s with ppu := { s.ppu with vram := m, vaddr := next } } ∧
      ∀ k, m.read k = if k = ntIndex s.cart.mirroring n then v else s.ppu.vram.read k) ∧
    (0x3000 ≤ n → n < 0x3F00 → memWrite a v s = .stop { s with fault := some (.ppuUnmapped s.ppu.vaddr) }) ∧
    (0x3F00 ≤ n → ∃ m : Memory,
      memWrite a v s = .ok () { s with ppu := { s.ppu with palette := m, vaddr := next } } ∧
      ∀ k, m.read k = if k = palIndex n then v else s.ppu.palette.read k)

/-- spec/50_ppu.md R272: a read of offset 0, 1 or 6 and a write of offset 2 raise their protocol violation with the CPU address, and change no PPU state. -/
def Obligations.DirectionViolations : Prop :=
  ∀ (s : State) (a : Addr) (v : Byte), 0x2000 ≤ a.toNat → a.toNat < 0x4000 →
    (a.toNat % 8 = 0 ∨ a.toNat % 8 = 1 ∨ a.toNat % 8 = 6 →
      memRead a s = .stop { s with fault := some (.readWriteOnly a) }) ∧
    (a.toNat % 8 = 2 → memWrite a v s = .stop { s with fault := some (.writeReadOnly a) })

/-- spec/50_ppu.md R273: offsets 3, 4 and 5 raise `PpuUnimplemented` under `fault`; under `ignore` a write changes nothing and a read returns 0x00 and changes
nothing.
(The parameter is the spec's decision D20.) -/
def Obligations.UnimplementedOffsets : Prop :=
  ∀ (s : State) (a : Addr) (v : Byte), 0x2000 ≤ a.toNat → a.toNat < 0x4000 → 3 ≤ a.toNat % 8 → a.toNat % 8 ≤ 5 →
    (s.params.ppuUnimpl = .fault →
      memRead a s = .stop { s with fault := some (.ppuUnimplemented (a.toNat % 8) false) } ∧
      memWrite a v s = .stop { s with fault := some (.ppuUnimplemented (a.toNat % 8) true) }) ∧
    (s.params.ppuUnimpl = .ignore → memRead a s = .ok 0x00#8 s ∧ memWrite a v s = .ok () s)

/-- spec/50_ppu.md R276 and R277: horizontally logical tables 0 and 1 share bank 0 and tables 2 and 3 bank 1; vertically tables 0 and 2 share bank 0 and tables 1 and 3 bank
1; the palette repeats every 32 bytes, with entries 0x10, 0x14, 0x18 and 0x1C named 0x00, 0x04, 0x08 and 0x0C.
(The spec marks the folds as its decisions D30 and D24.) -/
def Obligations.NametableAndPaletteFolds : Prop :=
  (∀ off, off < 0x400 →
    ntIndex .horizontal (0x2000 + off) = off ∧ ntIndex .horizontal (0x2400 + off) = off ∧
    ntIndex .horizontal (0x2800 + off) = 0x400 + off ∧ ntIndex .horizontal (0x2C00 + off) = 0x400 + off ∧
    ntIndex .vertical (0x2000 + off) = off ∧ ntIndex .vertical (0x2400 + off) = 0x400 + off ∧
    ntIndex .vertical (0x2800 + off) = off ∧ ntIndex .vertical (0x2C00 + off) = 0x400 + off) ∧
  ∀ k, 0x3F00 + k < 0x4000 →
    palIndex (0x3F00 + k) = if k % 32 ∈ [0x10, 0x14, 0x18, 0x1C] then k % 32 - 0x10 else k % 32

/-- spec/20_memory.md R67: a Bus read changes at most the PPU's status, latch, read buffer and VRAM address and the diagnostic log; one that faults changes the
fault record alone.
(The spec marks R67 as derived.) -/
def Obligations.BusReadFrame : Prop :=
  ∀ (s t : State) (a : Addr),
    (∀ v, memRead a s = .ok v t →
      t = { s with diag := t.diag, ppu := { s.ppu with status := t.ppu.status, w := t.ppu.w, rbuf := t.ppu.rbuf,
                                                       vaddr := t.ppu.vaddr } }) ∧
    (memRead a s = .stop t → t.fault.isSome = true ∧ t = { s with fault := t.fault })

/-! ### Operands -/

/-- spec/41_addressing.md R142–R147, R149, R150: the effective address of each memory mode in numbers, with the 8-bit wraps of the zero-page modes and of both pointers,
the 16-bit wrap of the indexed modes, and the page cross of R152, which only absolute+X, absolute+Y and indirect-indexed report. -/
def Obligations.EffectiveAddresses : Prop :=
  ∀ (s : State) (z : Byte) (addr : Addr),
    let ptr := fun (k : Nat) => (s.ramByte (k % 256)).toNat + 256 * (s.ramByte ((k + 1) % 256)).toNat
    ((MemOperand.zp z).ea s).toNat = z.toNat ∧
    ((MemOperand.zpx z).ea s).toNat = (z.toNat + s.x.toNat) % 256 ∧
    ((MemOperand.zpy z).ea s).toNat = (z.toNat + s.y.toNat) % 256 ∧
    (MemOperand.abs addr).ea s = addr ∧
    ((MemOperand.abx addr).ea s).toNat = (addr.toNat + s.x.toNat) % 65536 ∧
    ((MemOperand.aby addr).ea s).toNat = (addr.toNat + s.y.toNat) % 65536 ∧
    ((MemOperand.izx z).ea s).toNat = ptr (z.toNat + s.x.toNat) ∧
    ((MemOperand.izy z).ea s).toNat = (ptr z.toNat + s.y.toNat) % 65536 ∧
    (∀ m ∈ [MemOperand.zp z, .zpx z, .zpy z, .abs addr, .izx z], m.crosses s = false) ∧
    ((MemOperand.abx addr).crosses s = true ↔ (addr.toNat + s.x.toNat) % 65536 / 256 ≠ addr.toNat / 256) ∧
    ((MemOperand.aby addr).crosses s = true ↔ (addr.toNat + s.y.toNat) % 65536 / 256 ≠ addr.toNat / 256) ∧
    ((MemOperand.izy z).crosses s = true ↔ (ptr z.toNat + s.y.toNat) % 65536 / 256 ≠ ptr z.toNat / 256)

/-- spec/40_cpu_engine.md R125: `Fetch()` delivers the immediate byte, and at an effective address in RAM or ROM the byte there, in both cases with no
effect.
(That the operand is read once is the spec's decision D5; that the immediate byte was read through the Bus in the fetch, so that
delivering it has no effect, is log entry 10.) -/
def Obligations.OperandFetch : Prop :=
  ∀ (s : State) (n : Byte) (m : MemOperand),
    (Source.imm n).fetch s = .ok n s ∧
    (PlainAddr (m.ea s) → (Source.mem m).fetch s = .ok (s.byteAt (m.ea s)) s)

/-! ### Loads, stores and transfers -/

/-- spec/42_load_store_transfer.md R160–R162: LDA, LDX and LDY load their register, set Z and N from the byte, and change nothing else.
(That a faulting operand read ends the instruction so is the spec's decision D18, that exec then answers a next state log entry 2.) -/
def Obligations.LoadsSetTheirRegister : Prop :=
  ReadsWith .lda (fun v u t => t.a = v ∧ FlagsBecome u t [(.z, v == 0x00#8), (.n, v.getLsbD 7)] ∧
    t = { u with a := t.a, p := t.p, cycles := t.cycles }) ∧
  ReadsWith .ldx (fun v u t => t.x = v ∧ FlagsBecome u t [(.z, v == 0x00#8), (.n, v.getLsbD 7)] ∧
    t = { u with x := t.x, p := t.p, cycles := t.cycles }) ∧
  ReadsWith .ldy (fun v u t => t.y = v ∧ FlagsBecome u t [(.z, v == 0x00#8), (.n, v.getLsbD 7)] ∧
    t = { u with y := t.y, p := t.p, cycles := t.cycles })

/-- spec/42_load_store_transfer.md R163–R165: STA, STX and STY write their register at the effective address and write no flag: into RAM that byte (through every mirror)
and no other, into a PPU register as the register bank says, into the unmapped range nothing but a diagnostic, and in ROM the write
faults.
(That a faulting write answers a next state is log entry 2, after the spec's decision D18; that the diagnostic is kept in the state is log entry 12.) -/
def Obligations.StoresWriteTheirRegister : Prop :=
  ∀ i r s, storesAs i = some r →
    HasRow i r.opcode r.base ∧
    let a := r.mem.ea s
    let v := r.reg.value s
    (a.toNat < 0x2000 → s.ram.wf = true → ∃ t, exec i s = .next t ∧ RamBecomes s t [(a.toNat % 0x800, v)] ∧
      (∀ b : Addr, t.byteAt b = if b.toNat < 0x2000 ∧ b.toNat % 0x800 = a.toNat % 0x800 then v else s.byteAt b) ∧
      t = { s with ram := t.ram }) ∧
    (0x2000 ≤ a.toNat → a.toNat < 0x4000 → exec i s = finish (ppuRegWrite a v s)) ∧
    (0x4000 ≤ a.toNat → a.toNat < 0x8000 → exec i s = .next { s with diag := s.diag ++ [.unmappedWrite a v] }) ∧
    (0x8000 ≤ a.toNat → exec i s = .next { s with fault := some (.romWrite a) })

/-- spec/42_load_store_transfer.md R166–R171: the transfers copy a register and set Z and N from it, but for TXS, which sets no flag; nothing else changes. -/
def Obligations.TransfersCopyARegister : Prop :=
  (HasRow .tax 0xAA#8 2 ∧ HasRow .tay 0xA8#8 2 ∧ HasRow .tsx 0xBA#8 2 ∧ HasRow .txa 0x8A#8 2 ∧ HasRow .txs 0x9A#8 2 ∧
    HasRow .tya 0x98#8 2) ∧
  ∀ s : State,
    (∃ t, exec .tax s = .next t ∧ t.x = s.a ∧ FlagsBecome s t [(.z, s.a == 0x00#8), (.n, s.a.getLsbD 7)] ∧
      t = { s with x := t.x, p := t.p }) ∧
    (∃ t, exec .tay s = .next t ∧ t.y = s.a ∧ FlagsBecome s t [(.z, s.a == 0x00#8), (.n, s.a.getLsbD 7)] ∧
      t = { s with y := t.y, p := t.p }) ∧
    (∃ t, exec .tsx s = .next t ∧ t.x = s.sp ∧ FlagsBecome s t [(.z, s.sp == 0x00#8), (.n, s.sp.getLsbD 7)] ∧
      t = { s with x := t.x, p := t.p }) ∧
    (∃ t, exec .txa s = .next t ∧ t.a = s.x ∧ FlagsBecome s t [(.z, s.x == 0x00#8), (.n, s.x.getLsbD 7)] ∧
      t = { s with a := t.a, p := t.p }) ∧
    exec .txs s = .next { s with sp := s.x } ∧
    (∃ t, exec .tya s = .next t ∧ t.a = s.y ∧ FlagsBecome s t [(.z, s.y == 0x00#8), (.n, s.y.getLsbD 7)] ∧
      t = { s with a := t.a, p := t.p })

/-! ### ALU -/

/-- spec/43_alu.md R180: ADC adds A, the operand and C in nine bits: A is the sum modulo 256, C whether it exceeds 0xFF, V both the sign-bit-XOR formula and the
signed overflow (R195), whatever D holds (R196).
(R195's signed overflow is marked as derived in the spec, and R196's binary sum is its decision D2.
That a faulting operand read ends the instruction so is the spec's decision D18, that exec then answers a next state log entry 2.) -/
def Obligations.AdcAddsWithCarry : Prop :=
  ReadsWith .adc (fun v u t =>
    let sum := u.a.toNat + v.toNat + (if u.flag .c then 1 else 0)
    let signed := u.a.toInt + v.toInt + (if u.flag .c then 1 else 0)
    t.a.toNat = sum % 256 ∧
    FlagsBecome u t [(.c, decide (255 < sum)), (.v, decide (signed < -128 ∨ 127 < signed)), (.z, decide (sum % 256 = 0)),
      (.n, decide (128 ≤ sum % 256))] ∧
    t.flag .v = ((~~~(u.a ^^^ v)) &&& (u.a ^^^ t.a)).getLsbD 7 ∧
    t = { u with a := t.a, p := t.p, cycles := t.cycles })

/-- spec/43_alu.md R181: SBC subtracts the operand and the borrow (1 - C) from A: A is the difference modulo 256, C = 1 means no borrow, V is the signed overflow
and the sign-bit-XOR formula on the complement.
(R195's signed overflow is marked as derived in the spec.
That a faulting operand read ends the instruction so is the spec's decision D18, that exec then answers a next state log entry 2.) -/
def Obligations.SbcSubtractsWithBorrow : Prop :=
  ReadsWith .sbc (fun v u t =>
    let borrow : Int := if u.flag .c then 0 else 1
    let diff := (u.a.toNat : Int) - v.toNat - borrow
    let signed := u.a.toInt - v.toInt - borrow
    (t.a.toNat : Int) = diff % 256 ∧
    FlagsBecome u t [(.c, decide (0 ≤ diff)), (.v, decide (signed < -128 ∨ 127 < signed)), (.z, decide (diff % 256 = 0)),
      (.n, decide (128 ≤ diff % 256))] ∧
    t.flag .v = ((~~~(u.a ^^^ (v ^^^ 0xFF#8))) &&& (u.a ^^^ t.a)).getLsbD 7 ∧
    t = { u with a := t.a, p := t.p, cycles := t.cycles })

/-- spec/43_alu.md R182–R184: AND, ORA and EOR combine A with the operand bit by bit, set Z and N from the result, and change nothing else.
(That a faulting operand read ends the instruction so is the spec's decision D18, that exec then answers a next state log entry 2.) -/
def Obligations.LogicCombinesBitwise : Prop :=
  (∀ row ∈ [(ReadOp.and, fun (x y : Bool) => x && y), (.ora, fun x y => x || y), (.eor, fun x y => x ^^ y)],
    ReadsWith row.1 (fun v u t =>
      (∀ k, k < 8 → t.a.getLsbD k = row.2 (u.a.getLsbD k) (v.getLsbD k)) ∧
      FlagsBecome u t [(.z, decide (t.a.toNat = 0)), (.n, decide (128 ≤ t.a.toNat))] ∧
      t = { u with a := t.a, p := t.p, cycles := t.cycles }))

/-- spec/43_alu.md R185: BIT sets Z from A and the operand, N and V from bits 7 and 6 of the operand, and changes nothing else.
(That a faulting operand read ends the instruction so is the spec's decision D18, that exec then answers a next state log entry 2.) -/
def Obligations.BitTestsTheOperand : Prop :=
  ReadsWith .bit (fun v u t =>
    FlagsBecome u t [(.z, decide (u.a &&& v = 0x00#8)), (.n, v.getLsbD 7), (.v, v.getLsbD 6)] ∧
    t = { u with p := t.p, cycles := t.cycles })

/-- spec/43_alu.md R186–R188: CMP, CPX and CPY set C when the register is at least the operand, Z when they are equal and N from bit 7 of the difference, and change
nothing else.
(That a faulting operand read ends the instruction so is the spec's decision D18, that exec then answers a next state log entry 2.) -/
def Obligations.ComparesSetCarryZeroNegative : Prop :=
  (∀ row ∈ [(ReadOp.cmp, fun (u : State) => u.a), (.cpx, fun u => u.x), (.cpy, fun u => u.y)],
    ReadsWith row.1 (fun v u t =>
      let r := row.2 u
      FlagsBecome u t [(.c, decide (v.toNat ≤ r.toNat)), (.z, decide (r = v)),
        (.n, decide (128 ≤ (r.toNat + 256 - v.toNat) % 256))] ∧
      t = { u with p := t.p, cycles := t.cycles }))

/-- spec/43_alu.md R189 and R190: INC and DEC write the operand plus or minus one modulo 256 back, set Z and N from it, and change nothing else.
(That a faulting read or write ends the instruction so is the spec's decision D18, that exec then answers a next state log entry 2.) -/
def Obligations.IncAndDecModifyMemory : Prop :=
  ModifiesWith .inc (fun _ m => BitVec.ofNat 8 (m.toNat + 1)) (fun _ r => [(.z, r == 0x00#8), (.n, r.getLsbD 7)]) ∧
  ModifiesWith .dec (fun _ m => BitVec.ofNat 8 (m.toNat + 255)) (fun _ r => [(.z, r == 0x00#8), (.n, r.getLsbD 7)])

/-- spec/43_alu.md R191–R194: INX, INY, DEX and DEY step their register by one modulo 256, set Z and N from it, and change nothing else. -/
def Obligations.RegisterStepsWrap : Prop :=
  (HasRow .inx 0xE8#8 2 ∧ HasRow .iny 0xC8#8 2 ∧ HasRow .dex 0xCA#8 2 ∧ HasRow .dey 0x88#8 2) ∧
  ∀ s : State,
    (∃ t, exec .inx s = .next t ∧ t.x.toNat = (s.x.toNat + 1) % 256 ∧
      FlagsBecome s t [(.z, t.x == 0x00#8), (.n, t.x.getLsbD 7)] ∧ t = { s with x := t.x, p := t.p }) ∧
    (∃ t, exec .iny s = .next t ∧ t.y.toNat = (s.y.toNat + 1) % 256 ∧
      FlagsBecome s t [(.z, t.y == 0x00#8), (.n, t.y.getLsbD 7)] ∧ t = { s with y := t.y, p := t.p }) ∧
    (∃ t, exec .dex s = .next t ∧ t.x.toNat = (s.x.toNat + 255) % 256 ∧
      FlagsBecome s t [(.z, t.x == 0x00#8), (.n, t.x.getLsbD 7)] ∧ t = { s with x := t.x, p := t.p }) ∧
    (∃ t, exec .dey s = .next t ∧ t.y.toNat = (s.y.toNat + 255) % 256 ∧
      FlagsBecome s t [(.z, t.y == 0x00#8), (.n, t.y.getLsbD 7)] ∧ t = { s with y := t.y, p := t.p })

/-! ### Shifts and rotates -/

/-- spec/44_shift_rotate.md R210–R213: ASL and ROL double the operand modulo 256, ROL adding the carry, with C from bit 7 of the operand; LSR and ROR halve it, ROR
adding the carry as bit 7, with C from bit 0 of the operand; Z and N come from the result (N is 0 after LSR); in the accumulator form and in memory.
(That a faulting read or write ends the instruction so is the spec's decision D18, that exec then answers a next state log entry 2.) -/
def Obligations.ShiftsAndRotates : Prop :=
  ModifiesWith .asl (fun _ m => BitVec.ofNat 8 (2 * m.toNat))
    (fun m r => [(.c, decide (128 ≤ m.toNat)), (.z, r == 0x00#8), (.n, r.getLsbD 7)]) ∧
  ModifiesWith .rol (fun c m => BitVec.ofNat 8 (2 * m.toNat + if c then 1 else 0))
    (fun m r => [(.c, decide (128 ≤ m.toNat)), (.z, r == 0x00#8), (.n, r.getLsbD 7)]) ∧
  ModifiesWith .lsr (fun _ m => BitVec.ofNat 8 (m.toNat / 2))
    (fun m r => [(.c, decide (m.toNat % 2 = 1)), (.z, r == 0x00#8), (.n, false)]) ∧
  ModifiesWith .ror (fun c m => BitVec.ofNat 8 (m.toNat / 2 + if c then 128 else 0))
    (fun m r => [(.c, decide (m.toNat % 2 = 1)), (.z, r == 0x00#8), (.n, r.getLsbD 7)])

/-! ### Branches, jumps and subroutines -/

/-- spec/45_branch_jump.md R220–R228: a branch whose flag has its value goes to PC plus the signed offset modulo 2^16, at one cycle more and a second one when the target's page
differs from that of PC; any other changes nothing.
(The PC that the page is compared with is the spec's decision D37.) -/
def Obligations.BranchesFollowTheirFlag : Prop :=
  ∀ i r s, branchesAs i = some r →
    HasRow i r.opcode 2 ∧
    let target := BitVec.ofInt 16 (s.pc.toNat + r.offset.toInt)
    (s.flag r.flag = r.taken → exec i s = .next { s with
      pc := target, cycles := s.cycles + 1 + (if target.toNat / 256 ≠ s.pc.toNat / 256 then 1 else 0) }) ∧
    (s.flag r.flag ≠ r.taken → exec i s = .next s)

/-- spec/45_branch_jump.md R229 and spec/41_addressing.md R148: JMP sets PC to its address, or to the 16-bit value behind its pointer, whose high byte is read from the start of the pointer's own page when
the pointer's low byte is 0xFF; it changes nothing else, and a pointer read that faults ends it. The last clause is the pointer in RAM or ROM.
(The order of the pointer's two reads is the spec's decision D5; that a faulting one ends the instruction is its decision D18, and that
exec then answers a next state is log entry 2.) -/
def Obligations.JumpsSetPc : Prop :=
  HasRow (.jmpAbs 0#16) 0x4C#8 3 ∧ HasRow (.jmpInd 0#16) 0x6C#8 5 ∧
  ∀ (s : State) (addr ptr : Addr),
    let second := if ptr.toNat % 256 = 255 then BitVec.ofNat 16 (ptr.toNat - 255) else ptr + 1#16
    exec (.jmpAbs addr) s = .next { s with pc := addr } ∧
    (match memRead ptr s with
      | .stop u => exec (.jmpInd ptr) s = .next u
      | .ok lo u =>
        match memRead second u with
        | .stop w => exec (.jmpInd ptr) s = .next w
        | .ok hi w => exec (.jmpInd ptr) s = .next { w with pc := hiLo hi lo }) ∧
    (PlainAddr ptr → PlainAddr second →
      exec (.jmpInd ptr) s = .next { s with pc := hiLo (s.byteAt second) (s.byteAt ptr) })

/-- spec/45_branch_jump.md R230: JSR pushes the address of its last byte, high byte first, with SP wrapping in page 1, and jumps; nothing else changes. -/
def Obligations.JsrPushesItsLastByteAddress : Prop :=
  HasRow (.jsr 0#16) 0x20#8 6 ∧
  ∀ (s : State) (addr : Addr), s.ram.wf = true →
    ∃ t, exec (.jsr addr) s = .next t ∧
      RamBecomes s t [(stackIndex s.sp, hi8 (s.pc - 1#16)), (stackIndex (s.sp - 1#8), lo8 (s.pc - 1#16))] ∧
      t = { s with ram := t.ram, sp := s.sp - 2#8, pc := addr }

/-- spec/45_branch_jump.md R231: RTS pulls a 16-bit value, low byte first, and sets PC to it plus one modulo 2^16; memory and everything else is unchanged. -/
def Obligations.RtsPullsAndAddsOne : Prop :=
  HasRow .rts 0x60#8 6 ∧
  ∀ s : State, exec .rts s = .next { s with
    sp := s.sp + 2#8
    pc := BitVec.ofNat 16 ((s.ramByte (stackIndex (s.sp + 1#8))).toNat +
      256 * (s.ramByte (stackIndex (s.sp + 2#8))).toNat + 1) }

/-- spec/45_branch_jump.md R232: a call and its return: RTS in the state that JSR leaves goes to the byte after the JSR with SP as it was.
(The spec marks R232 as derived.) -/
def Obligations.RtsReturnsFromJsr : Prop :=
  ∀ (s t : State) (addr : Addr), s.ram.wf = true → exec (.jsr addr) s = .next t →
    exec .rts t = .next { t with sp := s.sp, pc := s.pc }

/-! ### Stack, status and system -/

/-- spec/46_stack_status_system.md R240 and R241: PHA pushes A and PHP pushes P with B = 1 and U = 1; P and everything else is unchanged.
(The pushed B and U are the spec's decision D11.) -/
def Obligations.PushesWriteOneStackByte : Prop :=
  HasRow .pha 0x48#8 3 ∧ HasRow .php 0x08#8 3 ∧
  ∀ s : State, s.ram.wf = true →
    (∃ t, exec .pha s = .next t ∧ RamBecomes s t [(stackIndex s.sp, s.a)] ∧
      t = { s with ram := t.ram, sp := s.sp - 1#8 }) ∧
    (∃ (t : State) (pushed : Byte), exec .php s = .next t ∧
      (∀ f, getFlag pushed f = if f = .b ∨ f = .u then true else s.flag f) ∧
      RamBecomes s t [(stackIndex s.sp, pushed)] ∧ t = { s with ram := t.ram, sp := s.sp - 1#8 })

/-- spec/46_stack_status_system.md R242 and R243: PLA pulls A and sets Z and N; PLP pulls P with B = 0 and U = 1; memory and everything else is unchanged.
(The stored B and U are the spec's decision D11.) -/
def Obligations.PullsReadOneStackByte : Prop :=
  HasRow .pla 0x68#8 4 ∧ HasRow .plp 0x28#8 4 ∧
  ∀ s : State,
    let v := s.ramByte (stackIndex (s.sp + 1#8))
    (∃ t, exec .pla s = .next t ∧ t.a = v ∧ FlagsBecome s t [(.z, v == 0x00#8), (.n, v.getLsbD 7)] ∧
      t = { s with a := t.a, p := t.p, sp := s.sp + 1#8 }) ∧
    (∃ t, exec .plp s = .next t ∧
      (∀ f, t.flag f = if f = .b then false else if f = .u then true else getFlag v f) ∧
      t = { s with p := t.p, sp := s.sp + 1#8 })

/-- spec/46_stack_status_system.md R244–R251: each flag instruction writes its one flag, and NOP nothing; everything else is unchanged. -/
def Obligations.FlagInstructionsWriteOneFlag : Prop :=
  (∀ row ∈ [(Instr.clc, Flag.c, false, 0x18#8), (.cld, .d, false, 0xD8#8), (.cli, .i, false, 0x58#8), (.clv, .v, false, 0xB8#8),
      (.sec, .c, true, 0x38#8), (.sed, .d, true, 0xF8#8), (.sei, .i, true, 0x78#8)],
    HasRow row.1 row.2.2.2 2 ∧
    ∀ s : State, ∃ t, exec row.1 s = .next t ∧ FlagsBecome s t [(row.2.1, row.2.2.1)] ∧ t = { s with p := t.p }) ∧
  HasRow .nop 0xEA#8 2 ∧ ∀ s : State, exec .nop s = .next s

/-- spec/46_stack_status_system.md R252: BRK skips the byte after it, pushes PC high, PC low and P with B = 1 and U = 1 and I as before, sets I, and loads PC from 0xFFFE/0xFFFF;
nothing else changes.
(The pushed flags are the spec's decisions D10 and D11.) -/
def Obligations.BrkPushesAndVectors : Prop :=
  HasRow .brk 0x00#8 7 ∧
  ∀ s : State, s.ram.wf = true →
    ∃ (t : State) (pushed : Byte), exec .brk s = .next t ∧
      (∀ f, getFlag pushed f = if f = .b ∨ f = .u then true else s.flag f) ∧
      RamBecomes s t [(stackIndex s.sp, hi8 (s.pc + 1#16)), (stackIndex (s.sp - 1#8), lo8 (s.pc + 1#16)),
        (stackIndex (s.sp - 2#8), pushed)] ∧
      FlagsBecome s t [(.i, true)] ∧
      t.pc = hiLo (s.byteAt 0xFFFF#16) (s.byteAt 0xFFFE#16) ∧
      t = { s with ram := t.ram, p := t.p, pc := t.pc, sp := s.sp - 3#8 }

/-- spec/46_stack_status_system.md R253: RTI pulls P, with B = 0 and U = 1, and then PC, low byte first, with no +1; memory and everything else is unchanged.
(The stored B and U are the spec's decision D11.) -/
def Obligations.RtiPullsStatusAndPc : Prop :=
  HasRow .rti 0x40#8 6 ∧
  ∀ s : State, ∃ t, exec .rti s = .next t ∧
    (∀ f, t.flag f = if f = .b then false else if f = .u then true
      else getFlag (s.ramByte (stackIndex (s.sp + 1#8))) f) ∧
    t.pc = BitVec.ofNat 16 ((s.ramByte (stackIndex (s.sp + 2#8))).toNat +
      256 * (s.ramByte (stackIndex (s.sp + 3#8))).toNat) ∧
    t = { s with p := t.p, pc := t.pc, sp := s.sp + 3#8 }

/-- spec/60_exceptions.md R312: RTI in the state an interrupt entry or BRK leaves restores PC and SP, and P but for the stored B and U, which are 0 and 1; the
registers and memory are those the entry left.
(The spec marks R312 as derived.) -/
def Obligations.RtiUndoesAnEntry : Prop :=
  ∀ s t : State, s.ram.wf = true →
    (∀ k, interruptEntry k s = .ok () t → ∃ u, exec .rti t = .next u ∧ FlagsBecome s u [(.b, false), (.u, true)] ∧
      u = { t with p := u.p, pc := s.pc, sp := s.sp }) ∧
    (exec .brk s = .next t → ∃ u, exec .rti t = .next u ∧ FlagsBecome s u [(.b, false), (.u, true)] ∧
      u = { t with p := u.p, pc := s.pc + 1#16, sp := s.sp })

/-! ### The loader -/

/-- spec/20_memory.md R79, R82 and R84: when `Load` fails and with which error: too short for a header, a wrong magic, too short for the sizes the header gives with its
trainer, then the admission checks; the reason of the last is the model's choice where several apply (log entry 14), so only the error's kind is stated.
(All but the magic check is the spec's decision D32.) -/
def Obligations.LoaderRejects : Prop :=
  ∀ f : List Byte,
    let b := fun k => f.getD k 0x00#8
    let need := 16 + (if (b 6).getLsbD 2 then 512 else 0) + 16384 * (b 4).toNat + 8192 * (b 5).toNat
    (f.length < 16 → load f = .error .truncated) ∧
    (16 ≤ f.length → ¬(b 0 = 0x4E#8 ∧ b 1 = 0x45#8 ∧ b 2 = 0x53#8 ∧ b 3 = 0x1A#8) → load f = .error .badMagic) ∧
    (16 ≤ f.length → (b 0 = 0x4E#8 ∧ b 1 = 0x45#8 ∧ b 2 = 0x53#8 ∧ b 3 = 0x1A#8) →
      (f.length < need → load f = .error .truncated) ∧
      (need ≤ f.length →
        ((b 7).toNat / 16 * 16 + (b 6).toNat / 16 ≠ 0 ∨ ((b 4).toNat ≠ 1 ∧ (b 4).toNat ≠ 2) ∨ (b 5).toNat ≠ 1 ∨
          (b 6).getLsbD 3 = true) →
        ∃ reason, load f = .error (.unsupported reason)))

/-- spec/20_memory.md R82 and R83: an admitted image: exactly the bytes the header counts, after the optional trainer, and the mirroring mode of byte 6 bit 0.
(The mirroring bit and the lengths are the spec's decisions D30 and D32.) -/
def Obligations.LoaderExtractsTheImage : Prop :=
  ∀ f : List Byte,
    let b := fun k => f.getD k 0x00#8
    let start := 16 + (if (b 6).getLsbD 2 then 512 else 0)
    let prg := 16384 * (b 4).toNat
    16 ≤ f.length → b 0 = 0x4E#8 → b 1 = 0x45#8 → b 2 = 0x53#8 → b 3 = 0x1A#8 →
    start + prg + 8192 ≤ f.length → (b 6).toNat / 16 = 0 → (b 7).toNat / 16 = 0 →
    (b 4 = 1#8 ∨ b 4 = 2#8) → b 5 = 1#8 → (b 6).getLsbD 3 = false →
    ∃ c, load f = .ok c ∧ c.Wf ∧ c.prgUnits = b 4 ∧ c.chrUnits = 1#8 ∧ c.mapper = 0x00#8 ∧
      c.mirroring = (if (b 6).getLsbD 0 then .vertical else .horizontal) ∧
      (∀ k, k < prg → c.prg.read k = f.getD (start + k) 0x00#8) ∧
      (∀ k, k < 8192 → c.chr.read k = f.getD (start + prg + k) 0x00#8)
end

