-- ==== Sys2Proof/Laws/State.lean ====
section
/-! SUPPORT. Each field after each update of the state, one lemma a field an update. -/

namespace Sys2Proof.Machine.State

@[simp] theorem setA_a (s : State) (v : Byte) : (s.setA v).a = v := rfl
@[simp] theorem setA_x (s : State) (v : Byte) : (s.setA v).x = s.x := rfl
@[simp] theorem setA_y (s : State) (v : Byte) : (s.setA v).y = s.y := rfl
@[simp] theorem setA_sp (s : State) (v : Byte) : (s.setA v).sp = s.sp := rfl
@[simp] theorem setA_pc (s : State) (v : Byte) : (s.setA v).pc = s.pc := rfl
@[simp] theorem setA_p (s : State) (v : Byte) : (s.setA v).p = s.p := rfl
@[simp] theorem setA_cycles (s : State) (v : Byte) : (s.setA v).cycles = s.cycles := rfl
@[simp] theorem setA_cpuReady (s : State) (v : Byte) : (s.setA v).cpuReady = s.cpuReady := rfl
@[simp] theorem setA_ram (s : State) (v : Byte) : (s.setA v).ram = s.ram := rfl
@[simp] theorem setA_cart (s : State) (v : Byte) : (s.setA v).cart = s.cart := rfl
@[simp] theorem setA_ppu (s : State) (v : Byte) : (s.setA v).ppu = s.ppu := rfl
@[simp] theorem setA_irq (s : State) (v : Byte) : (s.setA v).irq = s.irq := rfl
@[simp] theorem setA_params (s : State) (v : Byte) : (s.setA v).params = s.params := rfl
@[simp] theorem setA_fault (s : State) (v : Byte) : (s.setA v).fault = s.fault := rfl
@[simp] theorem setA_diag (s : State) (v : Byte) : (s.setA v).diag = s.diag := rfl
@[simp] theorem setA_freeCount (s : State) (v : Byte) : (s.setA v).freeCount = s.freeCount := rfl

@[simp] theorem setX_a (s : State) (v : Byte) : (s.setX v).a = s.a := rfl
@[simp] theorem setX_x (s : State) (v : Byte) : (s.setX v).x = v := rfl
@[simp] theorem setX_y (s : State) (v : Byte) : (s.setX v).y = s.y := rfl
@[simp] theorem setX_sp (s : State) (v : Byte) : (s.setX v).sp = s.sp := rfl
@[simp] theorem setX_pc (s : State) (v : Byte) : (s.setX v).pc = s.pc := rfl
@[simp] theorem setX_p (s : State) (v : Byte) : (s.setX v).p = s.p := rfl
@[simp] theorem setX_cycles (s : State) (v : Byte) : (s.setX v).cycles = s.cycles := rfl
@[simp] theorem setX_cpuReady (s : State) (v : Byte) : (s.setX v).cpuReady = s.cpuReady := rfl
@[simp] theorem setX_ram (s : State) (v : Byte) : (s.setX v).ram = s.ram := rfl
@[simp] theorem setX_cart (s : State) (v : Byte) : (s.setX v).cart = s.cart := rfl
@[simp] theorem setX_ppu (s : State) (v : Byte) : (s.setX v).ppu = s.ppu := rfl
@[simp] theorem setX_irq (s : State) (v : Byte) : (s.setX v).irq = s.irq := rfl
@[simp] theorem setX_params (s : State) (v : Byte) : (s.setX v).params = s.params := rfl
@[simp] theorem setX_fault (s : State) (v : Byte) : (s.setX v).fault = s.fault := rfl
@[simp] theorem setX_diag (s : State) (v : Byte) : (s.setX v).diag = s.diag := rfl
@[simp] theorem setX_freeCount (s : State) (v : Byte) : (s.setX v).freeCount = s.freeCount := rfl

@[simp] theorem setY_a (s : State) (v : Byte) : (s.setY v).a = s.a := rfl
@[simp] theorem setY_x (s : State) (v : Byte) : (s.setY v).x = s.x := rfl
@[simp] theorem setY_y (s : State) (v : Byte) : (s.setY v).y = v := rfl
@[simp] theorem setY_sp (s : State) (v : Byte) : (s.setY v).sp = s.sp := rfl
@[simp] theorem setY_pc (s : State) (v : Byte) : (s.setY v).pc = s.pc := rfl
@[simp] theorem setY_p (s : State) (v : Byte) : (s.setY v).p = s.p := rfl
@[simp] theorem setY_cycles (s : State) (v : Byte) : (s.setY v).cycles = s.cycles := rfl
@[simp] theorem setY_cpuReady (s : State) (v : Byte) : (s.setY v).cpuReady = s.cpuReady := rfl
@[simp] theorem setY_ram (s : State) (v : Byte) : (s.setY v).ram = s.ram := rfl
@[simp] theorem setY_cart (s : State) (v : Byte) : (s.setY v).cart = s.cart := rfl
@[simp] theorem setY_ppu (s : State) (v : Byte) : (s.setY v).ppu = s.ppu := rfl
@[simp] theorem setY_irq (s : State) (v : Byte) : (s.setY v).irq = s.irq := rfl
@[simp] theorem setY_params (s : State) (v : Byte) : (s.setY v).params = s.params := rfl
@[simp] theorem setY_fault (s : State) (v : Byte) : (s.setY v).fault = s.fault := rfl
@[simp] theorem setY_diag (s : State) (v : Byte) : (s.setY v).diag = s.diag := rfl
@[simp] theorem setY_freeCount (s : State) (v : Byte) : (s.setY v).freeCount = s.freeCount := rfl

@[simp] theorem setSp_a (s : State) (v : Byte) : (s.setSp v).a = s.a := rfl
@[simp] theorem setSp_x (s : State) (v : Byte) : (s.setSp v).x = s.x := rfl
@[simp] theorem setSp_y (s : State) (v : Byte) : (s.setSp v).y = s.y := rfl
@[simp] theorem setSp_sp (s : State) (v : Byte) : (s.setSp v).sp = v := rfl
@[simp] theorem setSp_pc (s : State) (v : Byte) : (s.setSp v).pc = s.pc := rfl
@[simp] theorem setSp_p (s : State) (v : Byte) : (s.setSp v).p = s.p := rfl
@[simp] theorem setSp_cycles (s : State) (v : Byte) : (s.setSp v).cycles = s.cycles := rfl
@[simp] theorem setSp_cpuReady (s : State) (v : Byte) : (s.setSp v).cpuReady = s.cpuReady := rfl
@[simp] theorem setSp_ram (s : State) (v : Byte) : (s.setSp v).ram = s.ram := rfl
@[simp] theorem setSp_cart (s : State) (v : Byte) : (s.setSp v).cart = s.cart := rfl
@[simp] theorem setSp_ppu (s : State) (v : Byte) : (s.setSp v).ppu = s.ppu := rfl
@[simp] theorem setSp_irq (s : State) (v : Byte) : (s.setSp v).irq = s.irq := rfl
@[simp] theorem setSp_params (s : State) (v : Byte) : (s.setSp v).params = s.params := rfl
@[simp] theorem setSp_fault (s : State) (v : Byte) : (s.setSp v).fault = s.fault := rfl
@[simp] theorem setSp_diag (s : State) (v : Byte) : (s.setSp v).diag = s.diag := rfl
@[simp] theorem setSp_freeCount (s : State) (v : Byte) : (s.setSp v).freeCount = s.freeCount := rfl

@[simp] theorem setPc_a (s : State) (v : Addr) : (s.setPc v).a = s.a := rfl
@[simp] theorem setPc_x (s : State) (v : Addr) : (s.setPc v).x = s.x := rfl
@[simp] theorem setPc_y (s : State) (v : Addr) : (s.setPc v).y = s.y := rfl
@[simp] theorem setPc_sp (s : State) (v : Addr) : (s.setPc v).sp = s.sp := rfl
@[simp] theorem setPc_pc (s : State) (v : Addr) : (s.setPc v).pc = v := rfl
@[simp] theorem setPc_p (s : State) (v : Addr) : (s.setPc v).p = s.p := rfl
@[simp] theorem setPc_cycles (s : State) (v : Addr) : (s.setPc v).cycles = s.cycles := rfl
@[simp] theorem setPc_cpuReady (s : State) (v : Addr) : (s.setPc v).cpuReady = s.cpuReady := rfl
@[simp] theorem setPc_ram (s : State) (v : Addr) : (s.setPc v).ram = s.ram := rfl
@[simp] theorem setPc_cart (s : State) (v : Addr) : (s.setPc v).cart = s.cart := rfl
@[simp] theorem setPc_ppu (s : State) (v : Addr) : (s.setPc v).ppu = s.ppu := rfl
@[simp] theorem setPc_irq (s : State) (v : Addr) : (s.setPc v).irq = s.irq := rfl
@[simp] theorem setPc_params (s : State) (v : Addr) : (s.setPc v).params = s.params := rfl
@[simp] theorem setPc_fault (s : State) (v : Addr) : (s.setPc v).fault = s.fault := rfl
@[simp] theorem setPc_diag (s : State) (v : Addr) : (s.setPc v).diag = s.diag := rfl
@[simp] theorem setPc_freeCount (s : State) (v : Addr) : (s.setPc v).freeCount = s.freeCount := rfl

@[simp] theorem setP_a (s : State) (v : Byte) : (s.setP v).a = s.a := rfl
@[simp] theorem setP_x (s : State) (v : Byte) : (s.setP v).x = s.x := rfl
@[simp] theorem setP_y (s : State) (v : Byte) : (s.setP v).y = s.y := rfl
@[simp] theorem setP_sp (s : State) (v : Byte) : (s.setP v).sp = s.sp := rfl
@[simp] theorem setP_pc (s : State) (v : Byte) : (s.setP v).pc = s.pc := rfl
@[simp] theorem setP_p (s : State) (v : Byte) : (s.setP v).p = v := rfl
@[simp] theorem setP_cycles (s : State) (v : Byte) : (s.setP v).cycles = s.cycles := rfl
@[simp] theorem setP_cpuReady (s : State) (v : Byte) : (s.setP v).cpuReady = s.cpuReady := rfl
@[simp] theorem setP_ram (s : State) (v : Byte) : (s.setP v).ram = s.ram := rfl
@[simp] theorem setP_cart (s : State) (v : Byte) : (s.setP v).cart = s.cart := rfl
@[simp] theorem setP_ppu (s : State) (v : Byte) : (s.setP v).ppu = s.ppu := rfl
@[simp] theorem setP_irq (s : State) (v : Byte) : (s.setP v).irq = s.irq := rfl
@[simp] theorem setP_params (s : State) (v : Byte) : (s.setP v).params = s.params := rfl
@[simp] theorem setP_fault (s : State) (v : Byte) : (s.setP v).fault = s.fault := rfl
@[simp] theorem setP_diag (s : State) (v : Byte) : (s.setP v).diag = s.diag := rfl
@[simp] theorem setP_freeCount (s : State) (v : Byte) : (s.setP v).freeCount = s.freeCount := rfl

@[simp] theorem setCycles_a (s : State) (n : Nat) : (s.setCycles n).a = s.a := rfl
@[simp] theorem setCycles_x (s : State) (n : Nat) : (s.setCycles n).x = s.x := rfl
@[simp] theorem setCycles_y (s : State) (n : Nat) : (s.setCycles n).y = s.y := rfl
@[simp] theorem setCycles_sp (s : State) (n : Nat) : (s.setCycles n).sp = s.sp := rfl
@[simp] theorem setCycles_pc (s : State) (n : Nat) : (s.setCycles n).pc = s.pc := rfl
@[simp] theorem setCycles_p (s : State) (n : Nat) : (s.setCycles n).p = s.p := rfl
@[simp] theorem setCycles_cycles (s : State) (n : Nat) : (s.setCycles n).cycles = n := rfl
@[simp] theorem setCycles_cpuReady (s : State) (n : Nat) : (s.setCycles n).cpuReady = s.cpuReady := rfl
@[simp] theorem setCycles_ram (s : State) (n : Nat) : (s.setCycles n).ram = s.ram := rfl
@[simp] theorem setCycles_cart (s : State) (n : Nat) : (s.setCycles n).cart = s.cart := rfl
@[simp] theorem setCycles_ppu (s : State) (n : Nat) : (s.setCycles n).ppu = s.ppu := rfl
@[simp] theorem setCycles_irq (s : State) (n : Nat) : (s.setCycles n).irq = s.irq := rfl
@[simp] theorem setCycles_params (s : State) (n : Nat) : (s.setCycles n).params = s.params := rfl
@[simp] theorem setCycles_fault (s : State) (n : Nat) : (s.setCycles n).fault = s.fault := rfl
@[simp] theorem setCycles_diag (s : State) (n : Nat) : (s.setCycles n).diag = s.diag := rfl
@[simp] theorem setCycles_freeCount (s : State) (n : Nat) : (s.setCycles n).freeCount = s.freeCount := rfl

@[simp] theorem setReady_a (s : State) (b : Bool) : (s.setReady b).a = s.a := rfl
@[simp] theorem setReady_x (s : State) (b : Bool) : (s.setReady b).x = s.x := rfl
@[simp] theorem setReady_y (s : State) (b : Bool) : (s.setReady b).y = s.y := rfl
@[simp] theorem setReady_sp (s : State) (b : Bool) : (s.setReady b).sp = s.sp := rfl
@[simp] theorem setReady_pc (s : State) (b : Bool) : (s.setReady b).pc = s.pc := rfl
@[simp] theorem setReady_p (s : State) (b : Bool) : (s.setReady b).p = s.p := rfl
@[simp] theorem setReady_cycles (s : State) (b : Bool) : (s.setReady b).cycles = s.cycles := rfl
@[simp] theorem setReady_cpuReady (s : State) (b : Bool) : (s.setReady b).cpuReady = b := rfl
@[simp] theorem setReady_ram (s : State) (b : Bool) : (s.setReady b).ram = s.ram := rfl
@[simp] theorem setReady_cart (s : State) (b : Bool) : (s.setReady b).cart = s.cart := rfl
@[simp] theorem setReady_ppu (s : State) (b : Bool) : (s.setReady b).ppu = s.ppu := rfl
@[simp] theorem setReady_irq (s : State) (b : Bool) : (s.setReady b).irq = s.irq := rfl
@[simp] theorem setReady_params (s : State) (b : Bool) : (s.setReady b).params = s.params := rfl
@[simp] theorem setReady_fault (s : State) (b : Bool) : (s.setReady b).fault = s.fault := rfl
@[simp] theorem setReady_diag (s : State) (b : Bool) : (s.setReady b).diag = s.diag := rfl
@[simp] theorem setReady_freeCount (s : State) (b : Bool) : (s.setReady b).freeCount = s.freeCount := rfl

@[simp] theorem setRam_a (s : State) (m : Memory) : (s.setRam m).a = s.a := rfl
@[simp] theorem setRam_x (s : State) (m : Memory) : (s.setRam m).x = s.x := rfl
@[simp] theorem setRam_y (s : State) (m : Memory) : (s.setRam m).y = s.y := rfl
@[simp] theorem setRam_sp (s : State) (m : Memory) : (s.setRam m).sp = s.sp := rfl
@[simp] theorem setRam_pc (s : State) (m : Memory) : (s.setRam m).pc = s.pc := rfl
@[simp] theorem setRam_p (s : State) (m : Memory) : (s.setRam m).p = s.p := rfl
@[simp] theorem setRam_cycles (s : State) (m : Memory) : (s.setRam m).cycles = s.cycles := rfl
@[simp] theorem setRam_cpuReady (s : State) (m : Memory) : (s.setRam m).cpuReady = s.cpuReady := rfl
@[simp] theorem setRam_ram (s : State) (m : Memory) : (s.setRam m).ram = m := rfl
@[simp] theorem setRam_cart (s : State) (m : Memory) : (s.setRam m).cart = s.cart := rfl
@[simp] theorem setRam_ppu (s : State) (m : Memory) : (s.setRam m).ppu = s.ppu := rfl
@[simp] theorem setRam_irq (s : State) (m : Memory) : (s.setRam m).irq = s.irq := rfl
@[simp] theorem setRam_params (s : State) (m : Memory) : (s.setRam m).params = s.params := rfl
@[simp] theorem setRam_fault (s : State) (m : Memory) : (s.setRam m).fault = s.fault := rfl
@[simp] theorem setRam_diag (s : State) (m : Memory) : (s.setRam m).diag = s.diag := rfl
@[simp] theorem setRam_freeCount (s : State) (m : Memory) : (s.setRam m).freeCount = s.freeCount := rfl

@[simp] theorem setCart_a (s : State) (c : Cartridge) : (s.setCart c).a = s.a := rfl
@[simp] theorem setCart_x (s : State) (c : Cartridge) : (s.setCart c).x = s.x := rfl
@[simp] theorem setCart_y (s : State) (c : Cartridge) : (s.setCart c).y = s.y := rfl
@[simp] theorem setCart_sp (s : State) (c : Cartridge) : (s.setCart c).sp = s.sp := rfl
@[simp] theorem setCart_pc (s : State) (c : Cartridge) : (s.setCart c).pc = s.pc := rfl
@[simp] theorem setCart_p (s : State) (c : Cartridge) : (s.setCart c).p = s.p := rfl
@[simp] theorem setCart_cycles (s : State) (c : Cartridge) : (s.setCart c).cycles = s.cycles := rfl
@[simp] theorem setCart_cpuReady (s : State) (c : Cartridge) : (s.setCart c).cpuReady = s.cpuReady := rfl
@[simp] theorem setCart_ram (s : State) (c : Cartridge) : (s.setCart c).ram = s.ram := rfl
@[simp] theorem setCart_cart (s : State) (c : Cartridge) : (s.setCart c).cart = c := rfl
@[simp] theorem setCart_ppu (s : State) (c : Cartridge) : (s.setCart c).ppu = s.ppu := rfl
@[simp] theorem setCart_irq (s : State) (c : Cartridge) : (s.setCart c).irq = s.irq := rfl
@[simp] theorem setCart_params (s : State) (c : Cartridge) : (s.setCart c).params = s.params := rfl
@[simp] theorem setCart_fault (s : State) (c : Cartridge) : (s.setCart c).fault = s.fault := rfl
@[simp] theorem setCart_diag (s : State) (c : Cartridge) : (s.setCart c).diag = s.diag := rfl
@[simp] theorem setCart_freeCount (s : State) (c : Cartridge) : (s.setCart c).freeCount = s.freeCount := rfl

@[simp] theorem setPpu_a (s : State) (u : Ppu) : (s.setPpu u).a = s.a := rfl
@[simp] theorem setPpu_x (s : State) (u : Ppu) : (s.setPpu u).x = s.x := rfl
@[simp] theorem setPpu_y (s : State) (u : Ppu) : (s.setPpu u).y = s.y := rfl
@[simp] theorem setPpu_sp (s : State) (u : Ppu) : (s.setPpu u).sp = s.sp := rfl
@[simp] theorem setPpu_pc (s : State) (u : Ppu) : (s.setPpu u).pc = s.pc := rfl
@[simp] theorem setPpu_p (s : State) (u : Ppu) : (s.setPpu u).p = s.p := rfl
@[simp] theorem setPpu_cycles (s : State) (u : Ppu) : (s.setPpu u).cycles = s.cycles := rfl
@[simp] theorem setPpu_cpuReady (s : State) (u : Ppu) : (s.setPpu u).cpuReady = s.cpuReady := rfl
@[simp] theorem setPpu_ram (s : State) (u : Ppu) : (s.setPpu u).ram = s.ram := rfl
@[simp] theorem setPpu_cart (s : State) (u : Ppu) : (s.setPpu u).cart = s.cart := rfl
@[simp] theorem setPpu_ppu (s : State) (u : Ppu) : (s.setPpu u).ppu = u := rfl
@[simp] theorem setPpu_irq (s : State) (u : Ppu) : (s.setPpu u).irq = s.irq := rfl
@[simp] theorem setPpu_params (s : State) (u : Ppu) : (s.setPpu u).params = s.params := rfl
@[simp] theorem setPpu_fault (s : State) (u : Ppu) : (s.setPpu u).fault = s.fault := rfl
@[simp] theorem setPpu_diag (s : State) (u : Ppu) : (s.setPpu u).diag = s.diag := rfl
@[simp] theorem setPpu_freeCount (s : State) (u : Ppu) : (s.setPpu u).freeCount = s.freeCount := rfl

@[simp] theorem setIrq_a (s : State) (l : IrqLine) : (s.setIrq l).a = s.a := rfl
@[simp] theorem setIrq_x (s : State) (l : IrqLine) : (s.setIrq l).x = s.x := rfl
@[simp] theorem setIrq_y (s : State) (l : IrqLine) : (s.setIrq l).y = s.y := rfl
@[simp] theorem setIrq_sp (s : State) (l : IrqLine) : (s.setIrq l).sp = s.sp := rfl
@[simp] theorem setIrq_pc (s : State) (l : IrqLine) : (s.setIrq l).pc = s.pc := rfl
@[simp] theorem setIrq_p (s : State) (l : IrqLine) : (s.setIrq l).p = s.p := rfl
@[simp] theorem setIrq_cycles (s : State) (l : IrqLine) : (s.setIrq l).cycles = s.cycles := rfl
@[simp] theorem setIrq_cpuReady (s : State) (l : IrqLine) : (s.setIrq l).cpuReady = s.cpuReady := rfl
@[simp] theorem setIrq_ram (s : State) (l : IrqLine) : (s.setIrq l).ram = s.ram := rfl
@[simp] theorem setIrq_cart (s : State) (l : IrqLine) : (s.setIrq l).cart = s.cart := rfl
@[simp] theorem setIrq_ppu (s : State) (l : IrqLine) : (s.setIrq l).ppu = s.ppu := rfl
@[simp] theorem setIrq_irq (s : State) (l : IrqLine) : (s.setIrq l).irq = l := rfl
@[simp] theorem setIrq_params (s : State) (l : IrqLine) : (s.setIrq l).params = s.params := rfl
@[simp] theorem setIrq_fault (s : State) (l : IrqLine) : (s.setIrq l).fault = s.fault := rfl
@[simp] theorem setIrq_diag (s : State) (l : IrqLine) : (s.setIrq l).diag = s.diag := rfl
@[simp] theorem setIrq_freeCount (s : State) (l : IrqLine) : (s.setIrq l).freeCount = s.freeCount := rfl

@[simp] theorem setFault_a (s : State) (f : Option Fault) : (s.setFault f).a = s.a := rfl
@[simp] theorem setFault_x (s : State) (f : Option Fault) : (s.setFault f).x = s.x := rfl
@[simp] theorem setFault_y (s : State) (f : Option Fault) : (s.setFault f).y = s.y := rfl
@[simp] theorem setFault_sp (s : State) (f : Option Fault) : (s.setFault f).sp = s.sp := rfl
@[simp] theorem setFault_pc (s : State) (f : Option Fault) : (s.setFault f).pc = s.pc := rfl
@[simp] theorem setFault_p (s : State) (f : Option Fault) : (s.setFault f).p = s.p := rfl
@[simp] theorem setFault_cycles (s : State) (f : Option Fault) : (s.setFault f).cycles = s.cycles := rfl
@[simp] theorem setFault_cpuReady (s : State) (f : Option Fault) : (s.setFault f).cpuReady = s.cpuReady := rfl
@[simp] theorem setFault_ram (s : State) (f : Option Fault) : (s.setFault f).ram = s.ram := rfl
@[simp] theorem setFault_cart (s : State) (f : Option Fault) : (s.setFault f).cart = s.cart := rfl
@[simp] theorem setFault_ppu (s : State) (f : Option Fault) : (s.setFault f).ppu = s.ppu := rfl
@[simp] theorem setFault_irq (s : State) (f : Option Fault) : (s.setFault f).irq = s.irq := rfl
@[simp] theorem setFault_params (s : State) (f : Option Fault) : (s.setFault f).params = s.params := rfl
@[simp] theorem setFault_fault (s : State) (f : Option Fault) : (s.setFault f).fault = f := rfl
@[simp] theorem setFault_diag (s : State) (f : Option Fault) : (s.setFault f).diag = s.diag := rfl
@[simp] theorem setFault_freeCount (s : State) (f : Option Fault) : (s.setFault f).freeCount = s.freeCount := rfl

@[simp] theorem setDiag_a (s : State) (d : List Diagnostic) : (s.setDiag d).a = s.a := rfl
@[simp] theorem setDiag_x (s : State) (d : List Diagnostic) : (s.setDiag d).x = s.x := rfl
@[simp] theorem setDiag_y (s : State) (d : List Diagnostic) : (s.setDiag d).y = s.y := rfl
@[simp] theorem setDiag_sp (s : State) (d : List Diagnostic) : (s.setDiag d).sp = s.sp := rfl
@[simp] theorem setDiag_pc (s : State) (d : List Diagnostic) : (s.setDiag d).pc = s.pc := rfl
@[simp] theorem setDiag_p (s : State) (d : List Diagnostic) : (s.setDiag d).p = s.p := rfl
@[simp] theorem setDiag_cycles (s : State) (d : List Diagnostic) : (s.setDiag d).cycles = s.cycles := rfl
@[simp] theorem setDiag_cpuReady (s : State) (d : List Diagnostic) : (s.setDiag d).cpuReady = s.cpuReady := rfl
@[simp] theorem setDiag_ram (s : State) (d : List Diagnostic) : (s.setDiag d).ram = s.ram := rfl
@[simp] theorem setDiag_cart (s : State) (d : List Diagnostic) : (s.setDiag d).cart = s.cart := rfl
@[simp] theorem setDiag_ppu (s : State) (d : List Diagnostic) : (s.setDiag d).ppu = s.ppu := rfl
@[simp] theorem setDiag_irq (s : State) (d : List Diagnostic) : (s.setDiag d).irq = s.irq := rfl
@[simp] theorem setDiag_params (s : State) (d : List Diagnostic) : (s.setDiag d).params = s.params := rfl
@[simp] theorem setDiag_fault (s : State) (d : List Diagnostic) : (s.setDiag d).fault = s.fault := rfl
@[simp] theorem setDiag_diag (s : State) (d : List Diagnostic) : (s.setDiag d).diag = d := rfl
@[simp] theorem setDiag_freeCount (s : State) (d : List Diagnostic) : (s.setDiag d).freeCount = s.freeCount := rfl

@[simp] theorem setFreeCount_a (s : State) (n : Nat) : (s.setFreeCount n).a = s.a := rfl
@[simp] theorem setFreeCount_x (s : State) (n : Nat) : (s.setFreeCount n).x = s.x := rfl
@[simp] theorem setFreeCount_y (s : State) (n : Nat) : (s.setFreeCount n).y = s.y := rfl
@[simp] theorem setFreeCount_sp (s : State) (n : Nat) : (s.setFreeCount n).sp = s.sp := rfl
@[simp] theorem setFreeCount_pc (s : State) (n : Nat) : (s.setFreeCount n).pc = s.pc := rfl
@[simp] theorem setFreeCount_p (s : State) (n : Nat) : (s.setFreeCount n).p = s.p := rfl
@[simp] theorem setFreeCount_cycles (s : State) (n : Nat) : (s.setFreeCount n).cycles = s.cycles := rfl
@[simp] theorem setFreeCount_cpuReady (s : State) (n : Nat) : (s.setFreeCount n).cpuReady = s.cpuReady := rfl
@[simp] theorem setFreeCount_ram (s : State) (n : Nat) : (s.setFreeCount n).ram = s.ram := rfl
@[simp] theorem setFreeCount_cart (s : State) (n : Nat) : (s.setFreeCount n).cart = s.cart := rfl
@[simp] theorem setFreeCount_ppu (s : State) (n : Nat) : (s.setFreeCount n).ppu = s.ppu := rfl
@[simp] theorem setFreeCount_irq (s : State) (n : Nat) : (s.setFreeCount n).irq = s.irq := rfl
@[simp] theorem setFreeCount_params (s : State) (n : Nat) : (s.setFreeCount n).params = s.params := rfl
@[simp] theorem setFreeCount_fault (s : State) (n : Nat) : (s.setFreeCount n).fault = s.fault := rfl
@[simp] theorem setFreeCount_diag (s : State) (n : Nat) : (s.setFreeCount n).diag = s.diag := rfl
@[simp] theorem setFreeCount_freeCount (s : State) (n : Nat) : (s.setFreeCount n).freeCount = n := rfl

@[simp] theorem faultCode_setFault (s : State) (f : Fault) : (s.setFault (some f)).faultCode = some f.code := rfl

/-- The codes that a record can hold are 1 to 6 (R300). -/
theorem faultCode_range {s : State} {n : Nat} (h : s.faultCode = some n) : 1 ≤ n ∧ n ≤ 6 := by
  obtain ⟨f, -, rfl⟩ := Option.map_eq_some_iff.mp h
  cases f <;> simp [Fault.code]

end Sys2Proof.Machine.State
end

