-- ==== Sys2Proof/Laws/Flags.lean ====
section
/-! SUPPORT. The laws of the status register: what each flag of a status byte is after each flag computation. -/

namespace Sys2Proof.Machine

theorem flagMask_bit (f g : Flag) : (1#8 <<< f.bit).getLsbD g.bit = decide (g = f) := by
  cases f <;> cases g <;> decide

theorem flag_bit_lt (f : Flag) : f.bit < 8 := by cases f <;> decide

/-- Setting one flag sets it and leaves the seven others. -/
theorem getFlag_putFlag (p : Byte) (f g : Flag) (on : Bool) :
    getFlag (putFlag p f on) g = if g = f then on else getFlag p g := by
  have hm := flagMask_bit f g
  have hg := flag_bit_lt g
  simp only [getFlag, putFlag]
  cases on <;> simp only [if_true, Bool.false_eq_true, if_false, BitVec.getLsbD_or, BitVec.getLsbD_and,
    BitVec.getLsbD_not, hm, hg, decide_true, Bool.true_and] <;> by_cases h : g = f <;> simp [h]

/-- A status byte is determined by its eight flags. -/
theorem eq_of_getFlag {p q : Byte} (h : ∀ f, getFlag p f = getFlag q f) : p = q := by
  apply BitVec.eq_of_getLsbD_eq
  intro k hk
  have h0 := h .c; have h1 := h .z; have h2 := h .i; have h3 := h .d
  have h4 := h .b; have h5 := h .u; have h6 := h .v; have h7 := h .n
  simp only [getFlag, Flag.bit] at h0 h1 h2 h3 h4 h5 h6 h7
  match k, hk with
  | 0, _ => exact h0
  | 1, _ => exact h1
  | 2, _ => exact h2
  | 3, _ => exact h3
  | 4, _ => exact h4
  | 5, _ => exact h5
  | 6, _ => exact h6
  | 7, _ => exact h7

theorem State.flag_def (s : State) (f : Flag) : s.flag f = getFlag s.p f := rfl

@[simp] theorem State.flag_setP (s : State) (p : Byte) (f : Flag) : (s.setP p).flag f = getFlag p f := rfl

@[simp] theorem State.p_putFlag (s : State) (f : Flag) (on : Bool) : (s.putFlag f on).p = Machine.putFlag s.p f on := rfl

/-- The flags after `SetZN` (R127). -/
theorem getFlag_setZN (r p : Byte) (f : Flag) :
    getFlag (setZN r p) f = if f = .n then r.getLsbD 7 else if f = .z then r == 0x00#8 else getFlag p f := by
  simp only [setZN, getFlag_putFlag]

/-- The flags after ADC (R180). -/
theorem getFlag_adcFlags (a m p : Byte) (f : Flag) :
    getFlag (adcFlags a m p) f =
      match f with
      | .c => adcCarry a m (getFlag p .c)
      | .z => adcResult a m (getFlag p .c) == 0x00#8
      | .v => adcOverflow a m (adcResult a m (getFlag p .c))
      | .n => (adcResult a m (getFlag p .c)).getLsbD 7
      | g => getFlag p g := by
  cases f <;> simp [adcFlags, getFlag_setZN, getFlag_putFlag]

/-- The flags after a compare (R186–R188). -/
theorem getFlag_compareFlags (r m p : Byte) (f : Flag) :
    getFlag (compareFlags r m p) f =
      match f with
      | .c => decide (m.toNat ≤ r.toNat)
      | .z => r - m == 0x00#8
      | .n => (r - m).getLsbD 7
      | g => getFlag p g := by
  cases f <;> simp [compareFlags, getFlag_setZN, getFlag_putFlag]

/-- The flags after BIT (R185). -/
theorem getFlag_bitFlags (a m p : Byte) (f : Flag) :
    getFlag (bitFlags a m p) f =
      match f with
      | .z => a &&& m == 0x00#8
      | .v => m.getLsbD 6
      | .n => m.getLsbD 7
      | g => getFlag p g := by
  cases f <;> simp [bitFlags, getFlag_putFlag]

/-- The flags after ASL or ROL of `m` to `r` (R210, R212). -/
theorem getFlag_leftFlags (m r p : Byte) (f : Flag) :
    getFlag (leftFlags m r p) f =
      match f with
      | .c => m.getLsbD 7
      | .z => r == 0x00#8
      | .n => r.getLsbD 7
      | g => getFlag p g := by
  cases f <;> simp [leftFlags, getFlag_setZN, getFlag_putFlag]

/-- The flags after LSR or ROR of `m` to `r` (R211, R213). -/
theorem getFlag_rightFlags (m r p : Byte) (f : Flag) :
    getFlag (rightFlags m r p) f =
      match f with
      | .c => m.getLsbD 0
      | .z => r == 0x00#8
      | .n => r.getLsbD 7
      | g => getFlag p g := by
  cases f <;> simp [rightFlags, getFlag_setZN, getFlag_putFlag]

/-- A pulled status byte has B = 0, U = 1 and its other flags from the stack (R243, R253). -/
theorem getFlag_pulledStatus (v : Byte) (f : Flag) :
    getFlag (pulledStatus v) f = if f = .b then false else if f = .u then true else getFlag v f := by
  cases f <;> simp [getFlag, pulledStatus, Flag.bit]

/-- The status byte that PHP and BRK push (R241, R252). -/
theorem getFlag_pushedByProgram (p : Byte) (f : Flag) :
    getFlag (pushedByProgram p) f = if f = .b ∨ f = .u then true else getFlag p f := by
  cases f <;> simp [getFlag, pushedByProgram, Flag.bit]

/-- The status byte that an interrupt entry pushes (R309). -/
theorem getFlag_pushedByEntry (p : Byte) (f : Flag) :
    getFlag (pushedByEntry p) f = if f = .b then false else if f = .u then true else getFlag p f := by
  cases f <;> simp [getFlag, pushedByEntry, Flag.bit]

end Sys2Proof.Machine
end

