-- ==== Sys2Proof/Laws/Bus.lean ====
section
/-! SUPPORT. What the accesses of the Bus can do: one lemma for each region of the address map, and for each access what it
changes when it delivers and when it faults. -/

namespace Sys2Proof.Machine

@[simp] theorem Bus.ok_andThen {α β : Type} (v : α) (s : State) (f : α → State → Bus β) :
    (Bus.ok v s).andThen f = f v s := rfl

@[simp] theorem Bus.stop_andThen {α β : Type} (s : State) (f : α → State → Bus β) :
    (Bus.stop s : Bus α).andThen f = .stop s := rfl

@[simp] theorem finish_ok {α : Type} (v : α) (s : State) : finish (Bus.ok v s) = .next s := rfl

@[simp] theorem finish_stop {α : Type} (s : State) : finish (Bus.stop s : Bus α) = .next s := rfl

/-- A run of accesses delivers only if each of its parts does. -/
theorem Bus.andThen_eq_ok {α β : Type} {r : Bus α} {f : α → State → Bus β} {v : β} {t : State} :
    r.andThen f = .ok v t ↔ ∃ w u, r = .ok w u ∧ f w u = .ok v t := by
  cases r <;> simp

/-- A run of accesses stops in its first part, or after it. -/
theorem Bus.andThen_eq_stop {α β : Type} {r : Bus α} {f : α → State → Bus β} {t : State} :
    r.andThen f = .stop t ↔ r = .stop t ∨ ∃ w u, r = .ok w u ∧ f w u = .stop t := by
  cases r <;> simp

/-! ### The regions of the address map (R61, R62) -/

theorem memRead_ram {a : Addr} (h : a.toNat < 0x2000) (s : State) :
    memRead a s = .ok (s.ram.read (ramIndex a)) s := by simp [memRead, h]

theorem memRead_ppu {a : Addr} (h : 0x2000 ≤ a.toNat) (h' : a.toNat < 0x4000) (s : State) :
    memRead a s = ppuRegRead a s := by
  rw [memRead, if_neg (by omega), if_pos h']

theorem memRead_unmapped {a : Addr} (h : 0x4000 ≤ a.toNat) (h' : a.toNat < 0x8000) (s : State) :
    memRead a s = .ok 0x00#8 (s.addDiag (.unmappedRead a)) := by
  rw [memRead, if_neg (by omega), if_neg (by omega), if_pos h']

theorem memRead_rom {a : Addr} (h : 0x8000 ≤ a.toNat) (s : State) : memRead a s = .ok (s.cart.prgByte a) s := by
  rw [memRead, if_neg (by omega), if_neg (by omega), if_neg (by omega)]

theorem memWrite_ram {a : Addr} (h : a.toNat < 0x2000) (v : Byte) (s : State) :
    memWrite a v s = .ok () (s.setRam (s.ram.write (ramIndex a) v)) := by simp [memWrite, h]

theorem memWrite_ppu {a : Addr} (h : 0x2000 ≤ a.toNat) (h' : a.toNat < 0x4000) (v : Byte) (s : State) :
    memWrite a v s = ppuRegWrite a v s := by
  rw [memWrite, if_neg (by omega), if_pos h']

theorem memWrite_unmapped {a : Addr} (h : 0x4000 ≤ a.toNat) (h' : a.toNat < 0x8000) (v : Byte) (s : State) :
    memWrite a v s = .ok () (s.addDiag (.unmappedWrite a v)) := by
  rw [memWrite, if_neg (by omega), if_neg (by omega), if_pos h']

theorem memWrite_rom {a : Addr} (h : 0x8000 ≤ a.toNat) (v : Byte) (s : State) :
    memWrite a v s = .stop (s.setFault (some (.romWrite a))) := by
  rw [memWrite, if_neg (by omega), if_neg (by omega), if_neg (by omega)]
  rfl

/-- At a plain address (RAM or ROM) a read delivers the byte there and changes nothing (R67). -/
theorem memRead_plain {a : Addr} (h : a.toNat < 0x2000 ∨ 0x8000 ≤ a.toNat) (s : State) :
    memRead a s = .ok (s.byteAt a) s := by
  rcases h with h | h
  · rw [memRead_ram h, State.byteAt, if_pos h]
  · rw [memRead_rom h, State.byteAt, if_neg (by omega), if_neg (by omega)]

/-! ### What an access changes -/

theorem ppuRead_ok {a : Addr} {s t : State} {v : Byte} (h : ppuRead a s = .ok v t) : t = s := by
  unfold ppuRead at h
  split at h <;> [skip; split at h <;> [skip; split at h]] <;> first | cases h; rfl | cases h

theorem ppuRead_stop {a : Addr} {s t : State} (h : ppuRead a s = .stop t) :
    t = s.setFault (some (.ppuUnmapped a)) ∧ 0x3000 ≤ a.toNat ∧ a.toNat < 0x3F00 := by
  unfold ppuRead at h
  split at h
  · cases h
  · split at h
    · cases h
    · split at h
      · cases h
        exact ⟨rfl, by omega, by omega⟩
      · cases h

/-- What a register read changes in the PPU when it delivers: the status byte, the latch, the buffer and the VRAM
address, and only these. -/
theorem ppuRegRead_ok {a : Addr} {s t : State} {v : Byte} (h : ppuRegRead a s = .ok v t) :
    t = s ∨
    t = s.setPpu { s.ppu with status := putVblank s.ppu.status false, w := false } ∨
    ∃ b, t = s.setPpu { s.ppu with rbuf := b }.advanceVaddr := by
  unfold ppuRegRead at h
  split at h
  · cases h; exact .inr (.inl rfl)
  · unfold ppuUnimplementedAccess at h; split at h <;> cases h; exact .inl rfl
  · unfold ppuUnimplementedAccess at h; split at h <;> cases h; exact .inl rfl
  · unfold ppuUnimplementedAccess at h; split at h <;> cases h; exact .inl rfl
  · obtain ⟨b, u, hr, hk⟩ := Bus.andThen_eq_ok.mp h
    cases ppuRead_ok hr
    cases hk
    exact .inr (.inr ⟨b, rfl⟩)
  · cases h

theorem ppuRegRead_stop {a : Addr} {s t : State} (h : ppuRegRead a s = .stop t) : ∃ f, t = s.setFault (some f) := by
  unfold ppuRegRead at h
  split at h
  · cases h
  · unfold ppuUnimplementedAccess at h; split at h <;> cases h; exact ⟨_, rfl⟩
  · unfold ppuUnimplementedAccess at h; split at h <;> cases h; exact ⟨_, rfl⟩
  · unfold ppuUnimplementedAccess at h; split at h <;> cases h; exact ⟨_, rfl⟩
  · rcases Bus.andThen_eq_stop.mp h with hr | ⟨_, _, _, hk⟩
    · exact ⟨_, (ppuRead_stop hr).1⟩
    · cases hk
  · cases h; exact ⟨_, rfl⟩

/-- Everything a Bus read can change when it delivers. -/
theorem memRead_ok {a : Addr} {s t : State} {v : Byte} (h : memRead a s = .ok v t) :
    t = s ∨ t = s.addDiag (.unmappedRead a) ∨
    t = s.setPpu { s.ppu with status := putVblank s.ppu.status false, w := false } ∨
    ∃ b, t = s.setPpu { s.ppu with rbuf := b }.advanceVaddr := by
  unfold memRead at h
  split at h
  · cases h; exact .inl rfl
  · split at h
    · rcases ppuRegRead_ok h with h | h | h
      · exact .inl h
      · exact .inr (.inr (.inl h))
      · exact .inr (.inr (.inr h))
    · split at h
      · cases h; exact .inr (.inl rfl)
      · cases h; exact .inl rfl

/-- A Bus read that faults changes nothing but the fault record. -/
theorem memRead_stop {a : Addr} {s t : State} (h : memRead a s = .stop t) : ∃ f, t = s.setFault (some f) := by
  unfold memRead at h
  split at h
  · cases h
  · split at h
    · exact ppuRegRead_stop h
    · split at h <;> cases h

/-- Everything a VRAM data write can change when it delivers. -/
theorem ppuWrite_ok {a : Addr} {v : Byte} {s t : State} (h : ppuWrite a v s = .ok () t) :
    (0x2000 ≤ a.toNat ∧ a.toNat < 0x3000 ∧
      t = s.setPpu { s.ppu with vram := s.ppu.vram.write (ntIndex s.cart.mirroring a.toNat) v }) ∨
    (0x3F00 ≤ a.toNat ∧ t = s.setPpu { s.ppu with palette := s.ppu.palette.write (palIndex a.toNat) v }) := by
  unfold ppuWrite at h
  split at h
  · cases h
  · split at h
    · cases h; exact .inl ⟨by omega, by omega, rfl⟩
    · split at h
      · cases h
      · cases h; exact .inr ⟨by omega, rfl⟩

theorem ppuWrite_stop {a : Addr} {v : Byte} {s t : State} (h : ppuWrite a v s = .stop t) :
    ∃ f, t = s.setFault (some f) := by
  unfold ppuWrite at h
  split at h
  · cases h; exact ⟨_, rfl⟩
  · split at h
    · cases h
    · split at h
      · cases h; exact ⟨_, rfl⟩
      · cases h

/-- Everything a register write can change in the PPU when it delivers. -/
theorem ppuRegWrite_ok {a : Addr} {v : Byte} {s t : State} (h : ppuRegWrite a v s = .ok () t) :
    t = s ∨
    t = s.setPpu { s.ppu with ctrl := v } ∨
    t = s.setPpu { s.ppu with mask := v } ∨
    t = s.setPpu (writeVramAddr v s.ppu) ∨
    ∃ u, ppuWrite s.ppu.vaddr v s = .ok () u ∧ t = u.setPpu u.ppu.advanceVaddr := by
  unfold ppuRegWrite at h
  split at h
  · cases h; exact .inr (.inl rfl)
  · cases h; exact .inr (.inr (.inl rfl))
  · cases h
  · unfold ppuUnimplementedAccess at h; split at h <;> cases h; exact .inl rfl
  · unfold ppuUnimplementedAccess at h; split at h <;> cases h; exact .inl rfl
  · unfold ppuUnimplementedAccess at h; split at h <;> cases h; exact .inl rfl
  · cases h; exact .inr (.inr (.inr (.inl rfl)))
  · obtain ⟨_, u, hr, hk⟩ := Bus.andThen_eq_ok.mp h
    cases hk
    exact .inr (.inr (.inr (.inr ⟨u, hr, rfl⟩)))

theorem ppuRegWrite_stop {a : Addr} {v : Byte} {s t : State} (h : ppuRegWrite a v s = .stop t) :
    ∃ f, t = s.setFault (some f) := by
  unfold ppuRegWrite at h
  split at h
  · cases h
  · cases h
  · cases h; exact ⟨_, rfl⟩
  · unfold ppuUnimplementedAccess at h; split at h <;> cases h; exact ⟨_, rfl⟩
  · unfold ppuUnimplementedAccess at h; split at h <;> cases h; exact ⟨_, rfl⟩
  · unfold ppuUnimplementedAccess at h; split at h <;> cases h; exact ⟨_, rfl⟩
  · cases h
  · rcases Bus.andThen_eq_stop.mp h with hr | ⟨_, _, _, hk⟩
    · exact ppuWrite_stop hr
    · cases hk

/-- Everything a Bus write can change when it delivers. -/
theorem memWrite_ok {a : Addr} {v : Byte} {s t : State} (h : memWrite a v s = .ok () t) :
    (a.toNat < 0x2000 ∧ t = s.setRam (s.ram.write (ramIndex a) v)) ∨
    (0x2000 ≤ a.toNat ∧ a.toNat < 0x4000 ∧ ppuRegWrite a v s = .ok () t) ∨
    t = s.addDiag (.unmappedWrite a v) := by
  unfold memWrite at h
  split at h
  · cases h; exact .inl ⟨by assumption, rfl⟩
  · split at h
    · exact .inr (.inl ⟨by omega, by assumption, h⟩)
    · split at h
      · cases h; exact .inr (.inr rfl)
      · cases h

/-- A Bus write that faults changes nothing but the fault record. -/
theorem memWrite_stop {a : Addr} {v : Byte} {s t : State} (h : memWrite a v s = .stop t) :
    ∃ f, t = s.setFault (some f) := by
  unfold memWrite at h
  split at h
  · cases h
  · split at h
    · exact ppuRegWrite_stop h
    · split at h
      · cases h
      · cases h; exact ⟨_, rfl⟩

end Sys2Proof.Machine
end

