-- ==== Sys2Proof/Laws/Memory.lean ====
section
/-! SUPPORT. The laws of the sparse memories: a read after a write, every operation keeps the canonical form and the
bounds, and a canonical memory is determined by what it reads. -/

namespace Sys2Proof.Machine.Memory

@[simp] theorem read_nil (k : Nat) : Memory.read [] k = unlistedByte := rfl

theorem wfFrom_mono {m : Memory} {lo lo' : Nat} (h : wfFrom lo m = true) (hl : lo' ≤ lo) : wfFrom lo' m = true := by
  cases m with
  | nil => rfl
  | cons c m =>
    simp only [wfFrom, Bool.and_eq_true, decide_eq_true_eq] at h ⊢
    exact ⟨⟨by omega, h.1.2⟩, h.2⟩

/-- An address below the bound of a canonical memory is not listed. -/
theorem read_below {m : Memory} {lo k : Nat} (h : wfFrom lo m = true) (hk : k < lo) : read m k = unlistedByte := by
  induction m generalizing lo with
  | nil => rfl
  | cons c m ih =>
    simp only [wfFrom, Bool.and_eq_true, decide_eq_true_eq] at h
    rw [read, if_neg (by omega)]
    exact ih h.2 (by omega)

theorem read_write_other (m : Memory) {k j : Nat} (v : Byte) (h : j ≠ k) : read (write m k v) j = read m j := by
  induction m with
  | nil => simp only [write]; split <;> simp [read, h]
  | cons c m ih =>
    simp only [write]
    split
    · split <;> simp [read, h]
    · split
      · rename_i _ hk
        split <;> simp [read, ← hk, h]
      · simp only [read, ih]

theorem read_write_same_from {m : Memory} {lo : Nat} (h : wfFrom lo m = true) (k : Nat) (v : Byte) :
    read (write m k v) k = v := by
  induction m generalizing lo with
  | nil => simp only [write]; split <;> simp_all [read]
  | cons c m ih =>
    simp only [wfFrom, Bool.and_eq_true, decide_eq_true_eq] at h
    simp only [write]
    split
    · split
      · subst v
        rw [read, if_neg (by omega)]
        exact read_below h.2 (by omega)
      · simp [read]
    · split
      · split
        · subst v
          exact read_below h.2 (by omega)
        · simp [read]
      · rw [read, if_neg (by assumption)]
        exact ih h.2

/-- A read after a write to the same address gives the byte written. -/
theorem read_write_same {m : Memory} (h : m.wf = true) (k : Nat) (v : Byte) : read (write m k v) k = v :=
  read_write_same_from h k v

/-- What every address reads after a write. -/
theorem read_write {m : Memory} (h : m.wf = true) (k j : Nat) (v : Byte) :
    read (write m k v) j = if j = k then v else read m j := by
  split
  · subst j; exact read_write_same h k v
  · exact read_write_other m v (by assumption)

theorem wfFrom_write {m : Memory} {lo k : Nat} (h : wfFrom lo m = true) (hk : lo ≤ k) (v : Byte) :
    wfFrom lo (write m k v) = true := by
  induction m generalizing lo with
  | nil => simp only [write]; split <;> simp_all [wfFrom]
  | cons c m ih =>
    have h0 := h
    simp only [wfFrom, Bool.and_eq_true, decide_eq_true_eq] at h
    simp only [write]
    split
    · split
      · exact h0
      · simp only [wfFrom, Bool.and_eq_true, decide_eq_true_eq]
        exact ⟨⟨hk, by assumption⟩, ⟨by omega, h.1.2⟩, h.2⟩
    · split
      · split
        · exact wfFrom_mono h.2 (by omega)
        · simp only [wfFrom, Bool.and_eq_true, decide_eq_true_eq]
          exact ⟨⟨hk, by assumption⟩, wfFrom_mono h.2 (by omega)⟩
      · simp only [wfFrom, Bool.and_eq_true, decide_eq_true_eq]
        exact ⟨h.1, ih h.2 (by omega)⟩

/-- A write keeps the canonical form. -/
theorem wf_write {m : Memory} (h : m.wf = true) (k : Nat) (v : Byte) : (write m k v).wf = true :=
  wfFrom_write h (Nat.zero_le k) v

theorem within_cons (n : Nat) (c : Host.Cell) (m : Memory) :
    within n (c :: m) = true ↔ c.1 < n ∧ within n m = true := by
  simp only [within, List.all_cons, Bool.and_eq_true, decide_eq_true_eq]

/-- A write below the size keeps the bounds. -/
theorem within_write {m : Memory} {n : Nat} (h : m.within n = true) {k : Nat} (hk : k < n) (v : Byte) :
    (write m k v).within n = true := by
  induction m with
  | nil =>
    simp only [write]
    split
    · rfl
    · exact (within_cons ..).mpr ⟨hk, rfl⟩
  | cons c m ih =>
    have hc := (within_cons ..).mp h
    simp only [write]
    split
    · split
      · exact h
      · exact (within_cons ..).mpr ⟨hk, h⟩
    · split
      · split
        · exact hc.2
        · exact (within_cons ..).mpr ⟨hk, hc.2⟩
      · exact (within_cons ..).mpr ⟨hc.1, ih hc.2⟩

theorem wfFrom_ofBytesFrom (k : Nat) (vs : List Byte) : wfFrom k (ofBytesFrom k vs) = true := by
  induction vs generalizing k with
  | nil => rfl
  | cons v vs ih =>
    simp only [ofBytesFrom]
    split
    · exact wfFrom_mono (ih (k + 1)) (by omega)
    · simp [wfFrom, ih (k + 1), *]

/-- A memory made of a list of bytes is canonical. -/
theorem wf_ofBytes (vs : List Byte) : (ofBytes vs).wf = true := wfFrom_ofBytesFrom 0 vs

theorem within_ofBytesFrom (k n : Nat) (vs : List Byte) (h : k + vs.length ≤ n) :
    (ofBytesFrom k vs).within n = true := by
  induction vs generalizing k with
  | nil => rfl
  | cons v vs ih =>
    simp only [List.length_cons] at h
    have := ih (k + 1) (by omega)
    simp only [ofBytesFrom]
    split
    · exact this
    · exact (within_cons ..).mpr ⟨by omega, this⟩

/-- A memory made of a list of bytes lies within its length. -/
theorem within_ofBytes {vs : List Byte} {n : Nat} (h : vs.length ≤ n) : (ofBytes vs).within n = true :=
  within_ofBytesFrom 0 n vs (by omega)

theorem read_ofBytesFrom (k j : Nat) (vs : List Byte) :
    read (ofBytesFrom k vs) (k + j) = vs.getD j unlistedByte := by
  induction vs generalizing k j with
  | nil => rfl
  | cons v vs ih =>
    simp only [ofBytesFrom]
    cases j with
    | zero =>
      split
      · subst v
        exact read_below (wfFrom_ofBytesFrom (k + 1) vs) (by omega)
      · simp [read]
    | succ j =>
      have := ih (k + 1) j
      rw [show k + 1 + j = k + (j + 1) by omega] at this
      split
      · simpa using this
      · rw [read, if_neg (by omega)]
        simpa using this

/-- A memory made of a list of bytes reads as the list. -/
theorem read_ofBytes (vs : List Byte) (j : Nat) : read (ofBytes vs) j = vs.getD j unlistedByte := by
  have := read_ofBytesFrom 0 j vs
  rwa [Nat.zero_add] at this

theorem eq_of_read_from {m m' : Memory} {lo lo' : Nat} (h : wfFrom lo m = true) (h' : wfFrom lo' m' = true)
    (hr : ∀ k, read m k = read m' k) : m = m' := by
  induction m generalizing lo lo' m' with
  | nil =>
    cases m' with
    | nil => rfl
    | cons c m' =>
      simp only [wfFrom, Bool.and_eq_true, decide_eq_true_eq] at h'
      have := hr c.1
      simp only [read, if_true] at this
      exact absurd this.symm h'.1.2
  | cons c m ih =>
    simp only [wfFrom, Bool.and_eq_true, decide_eq_true_eq] at h
    cases m' with
    | nil =>
      have := hr c.1
      simp only [read, if_true] at this
      exact absurd this h.1.2
    | cons c' m' =>
      simp only [wfFrom, Bool.and_eq_true, decide_eq_true_eq] at h'
      have heq : c.1 = c'.1 := by
        rcases Nat.lt_trichotomy c.1 c'.1 with hlt | heq | hgt
        · have := hr c.1
          rw [read, if_pos rfl, read, if_neg (by omega), read_below h'.2 (by omega)] at this
          exact absurd this h.1.2
        · exact heq
        · have := hr c'.1
          rw [read, if_neg (by omega), read, if_pos rfl, read_below h.2 (by omega)] at this
          exact absurd this.symm h'.1.2
      have hv : c.2 = c'.2 := by
        have := hr c.1
        rwa [read, if_pos rfl, read, if_pos heq] at this
      have htail : m = m' := by
        refine ih h.2 h'.2 fun k => ?_
        by_cases hk : k = c.1
        · subst k
          rw [read_below h.2 (by omega), read_below h'.2 (by omega)]
        · have := hr k
          rwa [read, if_neg hk, read, if_neg (by omega)] at this
      rw [htail, Prod.ext heq hv]

/-- Equal memories are equal data: a canonical memory is determined by what it reads. -/
theorem eq_of_read {m m' : Memory} (h : m.wf = true) (h' : m'.wf = true) (hr : ∀ k, read m k = read m' k) : m = m' :=
  eq_of_read_from h h' hr

end Sys2Proof.Machine.Memory
end

