-- ==== Sys2Proof/Laws/Cartridge.lean ====
section
/-! SUPPORT. What a load that succeeds says about the file, and that an admitted image meets the cartridge's invariant. -/

namespace Sys2Proof.Machine

/-- A load succeeds only with the image of an admitted file that is long enough (R82, R84). -/
theorem load_ok {f : List Byte} {c : Cartridge} (h : load f = .ok c) :
    c = imageOf f ∧ admission f = none ∧ prgOffset f + prgLength f + chrLength f ≤ f.length := by
  unfold load at h
  split at h
  · cases h
  · split at h
    · cases h
    · split at h
      · cases h
      · split at h
        · cases h
        · cases h
          exact ⟨rfl, by assumption, by omega⟩

/-- An admitted file passes every check of R84. -/
theorem admission_none {f : List Byte} (h : admission f = none) :
    mapperId f = 0x00#8 ∧ (headerByte f 4 = 1#8 ∨ headerByte f 4 = 2#8) ∧ headerByte f 5 = 1#8 ∧
      (headerByte f 6).getLsbD 3 = false := by
  unfold admission at h
  split at h
  · cases h
  split at h
  · cases h
  split at h
  · cases h
  split at h
  · cases h
  rename_i a b c d
  refine ⟨by simpa using a, ?_, by simpa using c, by simpa using d⟩
  by_contra h2
  exact b ⟨fun h1 => h2 (.inl h1), fun h1 => h2 (.inr h1)⟩

/-- The image of an admitted file is canonical and inside its sizes (R30, R84). -/
theorem imageOf_wf {f : List Byte} (h : admission f = none) : (imageOf f).Wf := by
  obtain ⟨a, b, c, -⟩ := admission_none h
  refine ⟨b, c, a, Memory.wf_ofBytes _, Memory.within_ofBytes ?_, Memory.wf_ofBytes _, Memory.within_ofBytes ?_⟩
  · rw [List.length_take]
    exact Nat.min_le_left _ _
  · rw [List.length_take]
    exact Nat.min_le_left _ _

end Sys2Proof.Machine
end

