-- ==== Sys2Proof/Laws/Decode.lean ====
section
/-! SUPPORT. The byte-order helpers in numbers, and the decode table against the list of ILLEGAL opcodes. -/

namespace Sys2Proof

theorem hi8_toNat (w : Addr) : (hi8 w).toNat = w.toNat / 256 := by
  have := w.isLt
  simp only [hi8, BitVec.extractLsb'_toNat, Nat.shiftRight_eq_div_pow]
  omega

theorem lo8_toNat (w : Addr) : (lo8 w).toNat = w.toNat % 256 := by
  simp only [lo8, BitVec.extractLsb'_toNat, Nat.shiftRight_zero]

theorem hiLo_toNat (hi lo : Byte) : (hiLo hi lo).toNat = hi.toNat * 256 + lo.toNat := by
  have := lo.isLt
  simp only [hiLo, BitVec.toNat_append]
  rw [← Nat.shiftLeft_add_eq_or_of_lt (by omega), Nat.shiftLeft_eq]

@[simp] theorem hiLo_hi8_lo8 (w : Addr) : hiLo (hi8 w) (lo8 w) = w := by
  apply BitVec.eq_of_toNat_eq
  rw [hiLo_toNat, hi8_toNat, lo8_toNat]
  omega

@[simp] theorem hi8_hiLo (hi lo : Byte) : hi8 (hiLo hi lo) = hi := by
  apply BitVec.eq_of_toNat_eq
  have := lo.isLt
  rw [hi8_toNat, hiLo_toNat]
  omega

@[simp] theorem lo8_hiLo (hi lo : Byte) : lo8 (hiLo hi lo) = lo := by
  apply BitVec.eq_of_toNat_eq
  have := lo.isLt
  rw [lo8_toNat, hiLo_toNat]
  omega

theorem zext16_toNat (v : Byte) : (zext16 v).toNat = v.toNat := by
  have := v.isLt
  simp [zext16]
  omega

/-- The row of an ILLEGAL opcode is `(ILLEGAL, IMP, 2)` (R104). -/
theorem opcodeRow_illegal (o : Byte) (h : isIllegalOpcode o = true) : opcodeRow o = Row.illegal o := by
  have hk : o ∈ illegalOpcodes := List.contains_iff_mem.mp h
  simp only [illegalOpcodes, List.cons_append, List.nil_append, List.mem_cons, List.not_mem_nil, or_false] at hk
  rcases hk with rfl | hk
  · rfl
  · repeat' (rcases hk with rfl | hk; · rfl)

/-- The bytes of the instruction that a row builds: its opcode, and the operand bytes its mode has, each where the table says. -/
theorem encode_build (o b c : Byte) :
    encode ((opcodeRow o).build b c) = o :: [b, c].take (opcodeRow o).mode.operandBytes := by
  have word : ∀ x, [x, lo8 (hiLo c b), hi8 (hiLo c b)] = [x, b, c] := by simp
  obtain ⟨n, h, rfl⟩ : ∃ n, n < 256 ∧ o = BitVec.ofNat 8 n := ⟨o.toNat, o.isLt, by simp⟩
  interval_cases n <;> first | rfl | exact word _

/-- The base cycles of the instruction that a row builds are the row's. -/
theorem baseCycles_build (o b c : Byte) : ((opcodeRow o).build b c).baseCycles = (opcodeRow o).base := by
  rw [Instr.baseCycles, encode_build, List.headD_cons]

end Sys2Proof
end

