-- ==== Sys2Proof/Laws/Stack.lean ====
section
/-! SUPPORT. The stack primitives, the vector reads, taking an interrupt and the return from one, each as one equation:
the stack page is RAM and the vectors are ROM, so none of them can fault. -/

namespace Sys2Proof.Machine

theorem stackAddr_toNat (sp : Byte) : (stackAddr sp).toNat = 0x100 + sp.toNat := by
  have := sp.isLt
  simp [stackAddr, zext16]
  omega

theorem stackAddr_isRam (sp : Byte) : (stackAddr sp).toNat < 0x2000 := by
  have := sp.isLt
  rw [stackAddr_toNat]
  omega

theorem ramIndex_stackAddr (sp : Byte) : ramIndex (stackAddr sp) = stackIndex sp := by
  have := sp.isLt
  rw [ramIndex, stackAddr_toNat, stackIndex]
  omega

/-- The three stack bytes at SP, SP - 1 and SP - 2 are different RAM bytes, also where SP wraps. -/
theorem stackIndex_inj {p q : Byte} : stackIndex p = stackIndex q ↔ p = q := by
  simp only [stackIndex]
  constructor
  · intro h; exact BitVec.eq_of_toNat_eq (by omega)
  · rintro rfl; rfl

/-- `Push` (R126). -/
theorem push_eq (v : Byte) (s : State) :
    push v s = .ok () ((s.setRam (s.ram.write (stackIndex s.sp) v)).setSp (s.sp - 1#8)) := by
  simp [push, memWrite_ram (stackAddr_isRam s.sp), ramIndex_stackAddr]

/-- `Pull` (R126). -/
theorem pull_eq (s : State) :
    pull s = .ok (s.ram.read (stackIndex (s.sp + 1#8))) (s.setSp (s.sp + 1#8)) := by
  simp [pull, memRead_ram (stackAddr_isRam _), ramIndex_stackAddr]

/-- The state after two pushes of a 16-bit value, high byte first. -/
theorem pushAddr_eq (w : Addr) (s : State) :
    pushAddr w s = .ok () ((s.setRam ((s.ram.write (stackIndex s.sp) (hi8 w)).write (stackIndex (s.sp - 1#8)) (lo8 w))).setSp
      (s.sp - 1#8 - 1#8)) := by
  simp [pushAddr, push_eq, State.setRam, State.setSp]

/-- The pull of a 16-bit value, low byte first. -/
theorem pullAddr_eq (s : State) :
    pullAddr s = .ok (hiLo (s.ram.read (stackIndex (s.sp + 1#8 + 1#8))) (s.ram.read (stackIndex (s.sp + 1#8))))
      (s.setSp (s.sp + 1#8 + 1#8)) := by
  simp [pullAddr, pull_eq, State.setSp]

/-- A vector in ROM reads as its two bytes and changes nothing. -/
theorem readVector_rom {vec : Addr} (h : 0x8000 ≤ vec.toNat) (h' : 0x8000 ≤ (vec + 1#16).toNat) (s : State) :
    readVector vec s = .ok (hiLo (s.cart.prgByte (vec + 1#16)) (s.cart.prgByte vec)) s := by
  simp [readVector, memRead_rom h, memRead_rom h']

/-- The target that a vector holds. -/
def Cartridge.vectorTarget (c : Cartridge) (vec : Addr) : Addr := hiLo (c.prgByte (vec + 1#16)) (c.prgByte vec)

/-- The RAM after the three pushes of an interrupt. -/
def State.pushedRam (s : State) (pushed : Byte) : Memory :=
  ((s.ram.write (stackIndex s.sp) (hi8 s.pc)).write (stackIndex (s.sp - 1#8)) (lo8 s.pc)).write
    (stackIndex (s.sp - 1#8 - 1#8)) pushed

/-- Taking an interrupt through a ROM vector. -/
theorem takeInterrupt_eq {vec : Addr} (h : 0x8000 ≤ vec.toNat) (h' : 0x8000 ≤ (vec + 1#16).toNat)
    (pushed stored : Byte) (s : State) :
    takeInterrupt pushed stored vec s = .ok () { s with
      ram := s.pushedRam pushed, sp := s.sp - 1#8 - 1#8 - 1#8, p := stored, pc := s.cart.vectorTarget vec } := by
  simp [takeInterrupt, pushAddr_eq, push_eq, readVector_rom h h', State.setRam, State.setSp, State.setP, State.setPc,
    State.pushedRam, Cartridge.vectorTarget]

theorem interruptVector_isRom (k : InterruptKind) : 0x8000 ≤ k.vector.toNat ∧ 0x8000 ≤ (k.vector + 1#16).toNat := by
  cases k <;> decide

/-- The entry of an interrupt (R309). -/
theorem interruptEntry_eq (k : InterruptKind) (s : State) :
    interruptEntry k s = .ok () { s with
      ram := s.pushedRam (pushedByEntry s.p), sp := s.sp - 1#8 - 1#8 - 1#8, p := storedByEntry s.p
      pc := s.cart.vectorTarget k.vector, cycles := k.entryCycles } := by
  obtain ⟨h, h'⟩ := interruptVector_isRom k
  simp [interruptEntry, takeInterrupt_eq h h', State.setCycles]

/-- The return from an interrupt (R253). -/
theorem returnFromInterrupt_eq (s : State) :
    returnFromInterrupt s = .ok () { s with
      sp := s.sp + 1#8 + 1#8 + 1#8, p := pulledStatus (s.ram.read (stackIndex (s.sp + 1#8)))
      pc := hiLo (s.ram.read (stackIndex (s.sp + 1#8 + 1#8 + 1#8))) (s.ram.read (stackIndex (s.sp + 1#8 + 1#8))) } := by
  simp [returnFromInterrupt, pull_eq, pullAddr_eq, State.setSp, State.setP, State.setPc]

end Sys2Proof.Machine
end

