-- ==== Sys2Proof/Laws/Effects.lean ====
section
/-! SUPPORT. Small lemmas about `FlagsBecome` and `RamBecomes`, and about the bytes that one, two or three stores leave. -/

namespace Sys2Proof.Machine

/-- Looking up in an effect list is a chain of equality tests. -/
theorem lookup_cons_if {α β : Type} [DecidableEq α] (k a : α) (b : β) (l : List (α × β)) :
    List.lookup k ((a, b) :: l) = if k = a then some b else List.lookup k l := by
  rw [List.lookup_cons]
  by_cases h : k = a
  · simp [h]
  · simp [h, beq_eq_false_iff_ne.mpr h]

/-- Flag by flag. -/
theorem FlagsBecome.of_p {s t : State} {w : List (Flag × Bool)}
    (h : ∀ f, getFlag t.p f = (w.lookup f).getD (getFlag s.p f)) : FlagsBecome s t w := h

/-- One store. -/
theorem RamBecomes.one {s t : State} (hw : s.ram.wf = true) {k : Nat} {v : Byte} (ht : t.ram = s.ram.write k v) :
    RamBecomes s t [(k, v)] := by
  intro j
  rw [State.ramByte, State.ramByte, ht, Memory.read_write hw, lookup_cons_if]
  split <;> rfl

/-- Two stores at different places. -/
theorem RamBecomes.two {s t : State} (hw : s.ram.wf = true) {k l : Nat} {v u : Byte} (hkl : k ≠ l)
    (ht : t.ram = (s.ram.write k v).write l u) : RamBecomes s t [(k, v), (l, u)] := by
  intro j
  rw [State.ramByte, State.ramByte, ht, Memory.read_write (Memory.wf_write hw _ _), Memory.read_write hw,
    lookup_cons_if, lookup_cons_if]
  by_cases h : j = l
  · rw [if_pos h, if_pos h, if_neg (by omega)]; rfl
  · rw [if_neg h, if_neg h]
    split <;> rfl

/-- Three stores at different places. -/
theorem RamBecomes.three {s t : State} (hw : s.ram.wf = true) {k l m : Nat} {v u x : Byte} (hkl : k ≠ l) (hkm : k ≠ m)
    (hlm : l ≠ m) (ht : t.ram = ((s.ram.write k v).write l u).write m x) :
    RamBecomes s t [(k, v), (l, u), (m, x)] := by
  intro j
  rw [State.ramByte, State.ramByte, ht, Memory.read_write (Memory.wf_write (Memory.wf_write hw _ _) _ _),
    Memory.read_write (Memory.wf_write hw _ _), Memory.read_write hw, lookup_cons_if, lookup_cons_if, lookup_cons_if]
  by_cases h : j = m
  · rw [if_pos h, if_pos h, if_neg (by omega), if_neg (by omega)]; rfl
  · by_cases h' : j = l
    · rw [if_neg h, if_pos h', if_neg (by omega), if_pos h']; rfl
    · rw [if_neg h, if_neg h', if_neg h', if_neg h]
      split <;> rfl

theorem sp_sub_two (p : Byte) : p - 1#8 - 1#8 = p - 2#8 := by bv_omega

theorem sp_sub_three (p : Byte) : p - 1#8 - 1#8 - 1#8 = p - 3#8 := by bv_omega

theorem sp_add_two (p : Byte) : p + 1#8 + 1#8 = p + 2#8 := by bv_omega

theorem sp_add_three (p : Byte) : p + 1#8 + 1#8 + 1#8 = p + 3#8 := by bv_omega

/-- The three bytes that an interrupt pushes, also where SP wraps. -/
theorem RamBecomes.pushed {s t : State} (hw : s.ram.wf = true) {v : Byte} (ht : t.ram = s.pushedRam v) :
    RamBecomes s t [(stackIndex s.sp, hi8 s.pc), (stackIndex (s.sp - 1#8), lo8 s.pc), (stackIndex (s.sp - 2#8), v)] := by
  rw [State.pushedRam, sp_sub_two] at ht
  refine RamBecomes.three hw ?_ ?_ ?_ ht <;> rw [Ne, stackIndex_inj] <;> bv_omega

/-- The status byte that an interrupt entry stores (R309). -/
theorem FlagsBecome.storedByEntry {s t : State} (h : t.p = storedByEntry s.p) :
    FlagsBecome s t [(.b, false), (.u, true), (.i, true)] := by
  intro f
  rw [State.flag_def, State.flag_def, h, Machine.storedByEntry]
  simp only [getFlag_putFlag, lookup_cons_if]
  cases f <;> rfl

end Sys2Proof.Machine
end

