-- ==== Sys2Proof/Laws/Exec.lean ====
section
/-! SUPPORT. What `exec` is, form by form, and the one closure argument over all its arms: a property that every register
write, every Bus access and every recorded fault keeps is kept by every instruction. -/

namespace Sys2Proof.Machine

/-- What a reading operation does with its operand. -/
def ReadOp.apply (op : ReadOp) : Byte → State → State :=
  match op with
  | .lda => loadA
  | .ldx => loadX
  | .ldy => loadY
  | .adc => addToA
  | .sbc => subtractFromA
  | .and => andA
  | .ora => orA
  | .eor => eorA
  | .bit => testBits
  | .cmp => compareA
  | .cpx => compareX
  | .cpy => compareY

/-- What a read-modify-write operation writes back, `c` the carry before it. -/
def ModifyOp.result (op : ModifyOp) (c : Bool) : Byte → Byte :=
  match op with
  | .inc => incByte
  | .dec => decByte
  | .asl => aslResult
  | .lsr => lsrResult
  | .rol => rolResult c
  | .ror => rorResult c

/-- The status byte after a read-modify-write operation. -/
def ModifyOp.status (op : ModifyOp) : Byte → Byte → Byte → Byte :=
  match op with
  | .inc | .dec => stepFlags
  | .asl | .rol => leftFlags
  | .lsr | .ror => rightFlags

/-- Every reading instruction is `readForm` of its row. -/
theorem exec_of_readsAs {i : Instr} {r : ReadRow} (h : readsAs i = some r) (s : State) :
    exec i s = readForm r.op.reportsCross r.op.apply r.src s := by
  cases i <;> first | (injection h with h; subst h; rfl) | (injection h)

/-- Every storing instruction is `storeForm` of its row. -/
theorem exec_of_storesAs {i : Instr} {r : StoreRow} (h : storesAs i = some r) (s : State) :
    exec i s = storeForm (r.reg.value s) r.mem s := by
  cases i <;> first | (injection h with h; subst h; rfl) | (injection h)

/-- Every read-modify-write instruction is `modifyForm` of its row. -/
theorem exec_of_modifiesAs {i : Instr} {r : ModifyRow} (h : modifiesAs i = some r) (s : State) :
    exec i s = modifyForm (r.op.result (s.flag .c)) r.op.status r.target s := by
  cases i <;> first | (injection h with h; subst h; rfl) | (injection h)

/-- Every branch is `branchForm` of its row. -/
theorem exec_of_branchesAs {i : Instr} {r : BranchRow} (h : branchesAs i = some r) (s : State) :
    exec i s = branchForm (s.flag r.flag == r.taken) r.offset s := by
  cases i <;> first | (injection h with h; subst h; simp [exec, execBcc, execBcs, execBeq, execBmi, execBne, execBpl,
    execBvc, execBvs]) | (injection h)

theorem baseCycles_of_encode {i : Instr} {o : Byte} {rest : List Byte} (h : encode i = o :: rest) :
    i.baseCycles = (opcodeRow o).base := by
  rw [Instr.baseCycles, h, List.headD_cons]

theorem baseCycles_of_readsAs {i : Instr} {r : ReadRow} (h : readsAs i = some r) : i.baseCycles ≤ 6 := by
  suffices i.baseCycles = r.base ∧ r.base ≤ 6 by omega
  cases i <;> first | (injection h with h; subst h; exact ⟨(baseCycles_of_encode rfl).trans rfl,
    by dsimp only; omega⟩) | (injection h)

theorem baseCycles_of_branchesAs {i : Instr} {r : BranchRow} (h : branchesAs i = some r) : i.baseCycles = 2 := by
  cases i <;> first | (injection h; exact (baseCycles_of_encode rfl).trans rfl) | (injection h)

/-- No instruction has more than 7 base cycles. -/
theorem baseCycles_le (i : Instr) : i.baseCycles ≤ 7 := by
  have h : ∀ n, n < 256 → (opcodeRow (BitVec.ofNat 8 n)).base ≤ 7 := by
    intro n hn
    interval_cases n <;> exact Nat.le_of_ble_eq_true rfl
  have := h _ ((encode i).headD 0#8).isLt
  rwa [BitVec.ofNat_toNat, BitVec.setWidth_eq] at this

/-- How an instruction may change P: the stored B and U stay, or P is one that a pull or an interrupt stores. -/
def StatusKept (p q : Byte) : Prop :=
  (getFlag q .b = getFlag p .b ∧ getFlag q .u = getFlag p .u) ∨ (getFlag q .b = false ∧ getFlag q .u = true)

/-- `P` is kept by everything an instruction can do to the state, but for the cycle counter. -/
structure Kept (P : State → Prop) : Prop where
  setA : ∀ s v, P s → P (s.setA v)
  setX : ∀ s v, P s → P (s.setX v)
  setY : ∀ s v, P s → P (s.setY v)
  setSp : ∀ s v, P s → P (s.setSp v)
  setPc : ∀ s v, P s → P (s.setPc v)
  setP : ∀ s v, P s → StatusKept s.p v → P (s.setP v)
  setFault : ∀ s f, P s → P (s.setFault (some f))
  read : ∀ a s v t, P s → memRead a s = .ok v t → P t
  write : ∀ a v s t, P s → memWrite a v s = .ok () t → P t

/-- `P` holds in the state that a run of accesses ends in. -/
def Bus.After {α : Type} (P : State → Prop) (r : Bus α) : Prop :=
  match r with
  | .ok _ s => P s
  | .stop s => P s

theorem Bus.After.andThen {α β : Type} {P : State → Prop} {r : Bus α} {f : α → State → Bus β} (h : r.After P)
    (hf : ∀ v t, P t → (f v t).After P) : (r.andThen f).After P := by
  cases r with
  | ok v s => exact hf v s h
  | stop s => exact h

theorem Bus.After.finish {α : Type} {P : State → Prop} {r : Bus α} (h : r.After P) : ∃ t, Machine.finish r = .next t ∧ P t := by
  cases r with
  | ok v s => exact ⟨s, rfl, h⟩
  | stop s => exact ⟨s, rfl, h⟩

theorem StatusKept.putFlag {p : Byte} {f : Flag} (hb : f ≠ .b) (hu : f ≠ .u) (on : Bool) :
    StatusKept p (Machine.putFlag p f on) := by
  left
  rw [getFlag_putFlag, getFlag_putFlag, if_neg hb.symm, if_neg hu.symm]
  exact ⟨rfl, rfl⟩

theorem StatusKept.setZN (r p : Byte) : StatusKept p (setZN r p) := by
  left
  simp [getFlag_setZN]

theorem StatusKept.adcFlags (a m p : Byte) : StatusKept p (adcFlags a m p) := by
  left
  simp [getFlag_adcFlags]

theorem StatusKept.compareFlags (r m p : Byte) : StatusKept p (compareFlags r m p) := by
  left
  simp [getFlag_compareFlags]

theorem StatusKept.bitFlags (a m p : Byte) : StatusKept p (bitFlags a m p) := by
  left
  simp [getFlag_bitFlags]

theorem StatusKept.pulledStatus (p v : Byte) : StatusKept p (pulledStatus v) := by
  right
  simp [getFlag_pulledStatus]

theorem StatusKept.modify (op : ModifyOp) (m r p : Byte) : StatusKept p (op.status m r p) := by
  left
  cases op <;> simp [ModifyOp.status, stepFlags, getFlag_setZN, getFlag_leftFlags, getFlag_rightFlags]

namespace Kept

variable {P : State → Prop}

theorem memRead (k : Kept P) (a : Addr) {s : State} (h : P s) : (Machine.memRead a s).After P := by
  cases hr : Machine.memRead a s with
  | ok v t => exact k.read a s v t h hr
  | stop t =>
    obtain ⟨f, rfl⟩ := memRead_stop hr
    exact k.setFault s f h

theorem memWrite (k : Kept P) (a : Addr) (v : Byte) {s : State} (h : P s) : (Machine.memWrite a v s).After P := by
  cases hr : Machine.memWrite a v s with
  | ok u t => exact k.write a v s t h hr
  | stop t =>
    obtain ⟨f, rfl⟩ := memWrite_stop hr
    exact k.setFault s f h

theorem push (k : Kept P) (v : Byte) {s : State} (h : P s) : (Machine.push v s).After P :=
  (k.memWrite _ v h).andThen fun _ t ht => k.setSp t _ ht

theorem pull (k : Kept P) {s : State} (h : P s) : (Machine.pull s).After P := k.memRead _ (k.setSp s _ h)

theorem pushAddr (k : Kept P) (w : Addr) {s : State} (h : P s) : (Machine.pushAddr w s).After P :=
  (k.push _ h).andThen fun _ _ ht => k.push _ ht

theorem pullAddr (k : Kept P) {s : State} (h : P s) : (Machine.pullAddr s).After P :=
  (k.pull h).andThen fun _ _ ht => (k.pull ht).andThen fun _ _ hu => hu

theorem readVector (k : Kept P) (vec : Addr) {s : State} (h : P s) : (Machine.readVector vec s).After P :=
  (k.memRead _ h).andThen fun _ _ ht => (k.memRead _ ht).andThen fun _ _ hu => hu

/-- Every reading operation writes A, X, Y and P only. -/
theorem apply (k : Kept P) (op : ReadOp) (v : Byte) {s : State} (h : P s) : P (op.apply v s) := by
  cases op
  case lda | and | ora | eor => exact k.setP _ _ (k.setA s _ h) (.setZN _ _)
  case ldx => exact k.setP _ _ (k.setX s _ h) (.setZN _ _)
  case ldy => exact k.setP _ _ (k.setY s _ h) (.setZN _ _)
  case adc | sbc => exact k.setP _ _ (k.setA s _ h) (.adcFlags _ _ _)
  case bit => exact k.setP _ _ h (.bitFlags _ _ _)
  case cmp | cpx | cpy => exact k.setP _ _ h (.compareFlags _ _ _)

theorem readForm (k : Kept P) (op : ReadOp) (f2 : Bool) (src : Source) {s : State} (h : P s) :
    ∃ t n, Machine.readForm f2 op.apply src s = .next (t.setCycles (t.cycles + n)) ∧ P t ∧ n ≤ 1 := by
  have hf : (src.fetch s).After P := by
    cases src with
    | imm n => exact h
    | mem m => exact k.memRead _ h
  rw [Machine.readForm]
  cases hr : src.fetch s with
  | ok v t =>
    rw [hr] at hf
    exact ⟨op.apply v t, if src.crosses s && f2 then 1 else 0, rfl, k.apply op v hf, by split <;> omega⟩
  | stop t =>
    rw [hr] at hf
    exact ⟨t, 0, rfl, hf, by omega⟩

theorem storeForm (k : Kept P) (v : Byte) (m : MemOperand) {s : State} (h : P s) :
    ∃ t, Machine.storeForm v m s = .next t ∧ P t :=
  (k.memWrite _ v h).finish

theorem modifyForm (k : Kept P) (op : ModifyOp) (c : Bool) (tgt : Target) {s : State} (h : P s) :
    ∃ t, Machine.modifyForm (op.result c) op.status tgt s = .next t ∧ P t := by
  cases tgt with
  | acc => exact ⟨_, rfl, k.setP _ _ (k.setA s _ h) (.modify _ _ _ _)⟩
  | mem m =>
    apply Bus.After.finish
    exact (k.memRead _ h).andThen fun v t ht => (k.memWrite _ _ ht).andThen fun _ u hu =>
      k.setP u _ hu (.modify op v _ _)

theorem branchForm (k : Kept P) (cond : Bool) (r : Byte) {s : State} (h : P s) :
    ∃ t n, Machine.branchForm cond r s = .next (t.setCycles (t.cycles + n)) ∧ P t ∧ n ≤ 2 := by
  cases cond with
  | false => exact ⟨s, 0, rfl, h, by omega⟩
  | true =>
    exact ⟨s.setPc (s.pc + sext16 r), if hi8 (s.pc + sext16 r) != hi8 s.pc then 2 else 1, rfl, k.setPc _ _ h,
      by split <;> omega⟩

theorem indirectTarget (k : Kept P) (ptr : Addr) {s : State} (h : P s) : (Machine.indirectTarget ptr s).After P :=
  (k.memRead _ h).andThen fun _ _ ht => (k.memRead _ ht).andThen fun _ _ hu => hu

/-- Taking an interrupt: BRK, NMI and IRQ. -/
theorem takeInterrupt (k : Kept P) (pushed stored : Byte) (vec : Addr) {s : State} (h : P s)
    (hp : StatusKept s.p stored) : (Machine.takeInterrupt pushed stored vec s).After P := by
  have h1 := k.pushAddr s.pc h
  unfold Machine.takeInterrupt
  rw [pushAddr_eq] at h1 ⊢
  have h2 := k.push pushed h1
  rw [Bus.ok_andThen]
  rw [push_eq] at h2 ⊢
  exact (k.readVector _ (k.setP _ _ h2 hp)).andThen fun _ _ hw => k.setPc _ _ hw

theorem returnFromInterrupt (k : Kept P) {s : State} (h : P s) : (Machine.returnFromInterrupt s).After P :=
  (k.pull h).andThen fun _ _ ht => (k.pullAddr (k.setP _ _ ht (.pulledStatus _ _))).andThen fun _ _ hu => k.setPc _ _ hu

theorem setFlag (k : Kept P) {f : Flag} (hb : f ≠ .b) (hu : f ≠ .u) (on : Bool) {s : State} (h : P s) :
    P (s.putFlag f on) := k.setP _ _ h (.putFlag hb hu on)

/-- An instruction of no form above answers a next state. -/
theorem exec_implied (k : Kept P) (i : Instr) {s : State} (h : P s) (hr : readsAs i = none) (hst : storesAs i = none)
    (hm : modifiesAs i = none) (hb : branchesAs i = none) : ∃ t, Machine.exec i s = .next t ∧ P t := by
  cases i <;> (first
    | (injection hr; done)
    | (injection hst; done)
    | (injection hm; done)
    | (injection hb; done)
    | clear hr hst hm hb)
  case tax | tsx => exact ⟨_, rfl, k.apply .ldx _ h⟩
  case tay => exact ⟨_, rfl, k.apply .ldy _ h⟩
  case txa | tya => exact ⟨_, rfl, k.apply .lda _ h⟩
  case txs => exact ⟨_, rfl, k.setSp _ _ h⟩
  case inx | dex => exact ⟨_, rfl, k.apply .ldx _ h⟩
  case iny | dey => exact ⟨_, rfl, k.apply .ldy _ h⟩
  case jmpAbs addr => exact ⟨_, rfl, k.setPc _ _ h⟩
  case jmpInd ptr => exact Bus.After.finish ((k.indirectTarget ptr h).andThen fun _ _ ht => k.setPc _ _ ht)
  case jsr addr => exact Bus.After.finish ((k.pushAddr _ h).andThen fun _ _ ht => k.setPc _ _ ht)
  case rts => exact Bus.After.finish ((k.pullAddr h).andThen fun _ _ ht => k.setPc _ _ ht)
  case pha | php => exact (k.push _ h).finish
  case pla => exact Bus.After.finish ((k.pull h).andThen fun v _ ht => k.apply .lda v ht)
  case plp => exact Bus.After.finish ((k.pull h).andThen fun v _ ht => k.setP _ _ ht (.pulledStatus _ v))
  case clc | cld | cli | clv | sec | sed | sei =>
    exact ⟨_, rfl, k.setFlag (by decide) (by decide) _ h⟩
  case nop => exact ⟨_, rfl, h⟩
  case brk =>
    exact (k.takeInterrupt _ _ _ (k.setPc _ _ h) (.putFlag (by decide) (by decide) true)).finish
  case rti => exact (k.returnFromInterrupt h).finish
  case illegal o => exact ⟨_, rfl, k.setFault _ _ h⟩

/-- Every instruction answers a next state, keeps what everything it can do keeps, and adds to the counter at most what
keeps it within 7. -/
theorem exec (k : Kept P) (i : Instr) {s : State} (h : P s) :
    ∃ t n, Machine.exec i s = .next (t.setCycles (t.cycles + n)) ∧ P t ∧ n + i.baseCycles ≤ 7 := by
  have h7 := baseCycles_le i
  rcases hr : readsAs i with _ | r
  · rcases hst : storesAs i with _ | r
    · rcases hm : modifiesAs i with _ | r
      · rcases hb : branchesAs i with _ | r
        · obtain ⟨t, ht, hp⟩ := k.exec_implied i h hr hst hm hb
          exact ⟨t, 0, ht, hp, by omega⟩
        · obtain ⟨t, n, ht, hp, hn⟩ := k.branchForm (s.flag r.flag == r.taken) r.offset h
          have := baseCycles_of_branchesAs hb
          exact ⟨t, n, (exec_of_branchesAs hb s).trans ht, hp, by omega⟩
      · obtain ⟨t, ht, hp⟩ := k.modifyForm r.op (s.flag .c) r.target h
        exact ⟨t, 0, (exec_of_modifiesAs hm s).trans ht, hp, by omega⟩
    · obtain ⟨t, ht, hp⟩ := k.storeForm (r.reg.value s) r.mem h
      exact ⟨t, 0, (exec_of_storesAs hst s).trans ht, hp, by omega⟩
  · obtain ⟨t, n, ht, hp, hn⟩ := k.readForm r.op r.op.reportsCross r.src h
    have := baseCycles_of_readsAs hr
    exact ⟨t, n, (exec_of_readsAs hr s).trans ht, hp, by omega⟩

/-- The same for a property that does not read the cycle counter. -/
theorem exec_next (k : Kept P) (hc : ∀ s n, P s → P (s.setCycles n)) (i : Instr) {s : State} (h : P s) :
    ∃ t, Machine.exec i s = .next t ∧ P t := by
  obtain ⟨t, n, ht, hp, -⟩ := k.exec i h
  exact ⟨_, ht, hc _ _ hp⟩

end Kept

end Sys2Proof.Machine
end

