-- ==== Sys2Proof/Laws/Host.lean ====
section
/-! SUPPORT. The host's calls: `reset()` as one equation, what its optional pushes leave alone, and `State.reset` as the reset of a
constructed machine. -/

namespace Sys2Proof.Machine

/-- The pushes of `P_RESET_PUSH` change RAM and the model's count of free values alone. -/
theorem resetPushes_frame (n : Nat) (s : State) :
    resetPushes n s = { s with ram := (resetPushes n s).ram, freeCount := (resetPushes n s).freeCount } := by
  induction n generalizing s with
  | zero => rfl
  | succ n ih => rw [resetPushes]; exact ih _

/-- They stay in page 1. -/
theorem resetPushes_outside (n : Nat) (s : State) {k : Nat} (h : k < 0x100 ∨ 0x200 ≤ k) :
    (resetPushes n s).ram.read k = s.ram.read k := by
  induction n generalizing s with
  | zero => rfl
  | succ n ih =>
    rw [resetPushes, ih]
    apply Memory.read_write_other
    have := (Config.resetPushOffset s.freeCount).isLt
    omega

/-- They keep RAM canonical and inside its size. -/
theorem resetPushes_wf (n : Nat) {s : State} (h : s.ram.wf = true) (h' : s.ram.within Config.ramSize = true) :
    (resetPushes n s).ram.wf = true ∧ (resetPushes n s).ram.within Config.ramSize = true := by
  induction n generalizing s with
  | zero => exact ⟨h, h'⟩
  | succ n ih =>
    have := (Config.resetPushOffset s.freeCount).isLt
    exact ih (Memory.wf_write h _ _) (Memory.within_write h' (by simp only [Config.ramSize]; omega) _)

/-- The state that reset sets the CPU in. -/
def State.beforeReset (s : State) : State := if s.params.resetPush then resetPushes 3 s else s

theorem beforeReset_cart (s : State) : s.beforeReset.cart = s.cart := by
  unfold State.beforeReset
  split
  · rw [resetPushes_frame]
  · rfl

/-- `reset()` of a machine with no fault (R331): the vector read is a ROM read and cannot fault. -/
theorem hostReset_of_none {s : State} (h : s.fault = none) : hostReset s = { s.beforeReset with
    a := 0x00#8, x := 0x00#8, y := 0x00#8, sp := 0xFD#8, p := 0x20#8, pc := s.cart.vectorTarget resetVector, cycles := 8
    cpuReady := true } := by
  unfold hostReset
  rw [h]
  dsimp only
  rw [readVector_rom (by decide) (by decide)]
  rw [show (if s.params.resetPush then resetPushes 3 s else s) = s.beforeReset from rfl,
    show s.beforeReset.resetRegisters.cart = s.cart from beforeReset_cart s]
  rfl

theorem hostReset_of_fault {s : State} {f : Fault} (h : s.fault = some f) : hostReset s = s := by
  unfold hostReset
  rw [h]

/-- `State.reset` is the machine after `reset()` of the constructed machine with the blank cartridge, zero contents, the default
parameters and the IRQ line deasserted (log entries 4, 5, 8, 9 and 13). -/
theorem reset_eq_hostReset_construct :
    State.reset = hostReset (construct Cartridge.blank Init.zero Config.defaultParams { levels := [], idle := false }) := by
  rw [hostReset_of_none rfl]
  rfl

end Sys2Proof.Machine
end

