-- ==== Sys2Proof/Laws/Ppu.lean ====
section
/-! SUPPORT. The PPU's pulses: what one changes, its position as one number, and a run of pulses as an iterate of `Ppu.tick`. -/

namespace Sys2Proof.Machine

@[simp] theorem Ppu.hooks_eq (u : Ppu) : u.hooks = u := by
  unfold Ppu.hooks
  split <;> rfl

/-- What one pulse does to the PPU: the event, the wrap, and the position (R260–R263). -/
theorem Ppu.tick_eq (u : Ppu) : u.tick = { u with
    status := if u.scanline = 241 ∧ u.cycle = 1 then putVblank u.status true
      else if u.scanline = 261 ∧ u.cycle = 340 then putVblank u.status false else u.status
    nmiPending := u.nmiPending || (decide (u.scanline = 241 ∧ u.cycle = 1) && u.ctrl.getLsbD 7)
    scanline := if u.cycle = 340 then (if u.scanline = 261 then 0 else u.scanline + 1) else u.scanline
    cycle := if u.cycle = 340 then 0 else u.cycle + 1 } := by
  unfold Ppu.tick Ppu.event
  by_cases h : u.scanline = 241 ∧ u.cycle = 1
  · obtain ⟨h1, h2⟩ := h
    simp [h1, h2, Ppu.advance]
  · rw [if_neg h, Ppu.hooks_eq]
    have e1 : (u.cycle + 1 = lineCycles) = (u.cycle = 340) := by simp only [lineCycles]; apply propext; omega
    have e2 : (u.scanline + 1 = scanlines) = (u.scanline = 261) := by simp only [scanlines]; apply propext; omega
    simp only [Ppu.advance, e1, e2]
    by_cases hc : u.cycle = 340 <;> by_cases hs : u.scanline = 261 <;> simp [hc, hs, h]

/-- The PPU's position as one number below 89,342 (R264). -/
def Ppu.position (u : Ppu) : Nat := u.scanline * lineCycles + u.cycle

/-- A pulse moves the position by one, and the last position is followed by the first. -/
theorem Ppu.position_tick {u : Ppu} (hs : u.scanline < scanlines) (hc : u.cycle < lineCycles) :
    u.tick.scanline < scanlines ∧ u.tick.cycle < lineCycles ∧ u.tick.position = (u.position + 1) % 89342 := by
  rw [Ppu.tick_eq]
  simp only [Ppu.position, scanlines, lineCycles] at *
  by_cases h : u.cycle = 340 <;> by_cases h' : u.scanline = 261 <;> simp [h, h'] <;> omega

/-- A pulse keeps the PPU's ranges. -/
theorem Ppu.Wf.tick {u : Ppu} (h : u.Wf) : u.tick.Wf := by
  obtain ⟨hv, hs, hc, hst⟩ := h
  obtain ⟨hs', hc', -⟩ := Ppu.position_tick hs hc
  refine ⟨by rw [Ppu.tick_eq]; exact hv, hs', hc', ?_⟩
  rw [Ppu.tick_eq]
  dsimp only
  split
  · apply BitVec.eq_of_getLsbD_eq
    intro k hk
    have := congrArg (·.getLsbD k) hst
    simp [putVblank] at this ⊢
    interval_cases k <;> simp_all
  · split
    · simp [putVblank, hst]
    · exact hst

@[simp] theorem ppuPulse_of_fault {s : State} {f : Fault} (h : s.fault = some f) : ppuPulse s = s := by
  simp [ppuPulse, h]

theorem ppuPulse_of_none {s : State} (h : s.fault = none) : ppuPulse s = s.setPpu s.ppu.tick := by
  simp [ppuPulse, h]

theorem ppuPulses_of_fault (n : Nat) {s : State} {f : Fault} (h : s.fault = some f) : ppuPulses n s = s := by
  induction n with
  | zero => rfl
  | succ n ih => rw [ppuPulses, ppuPulse_of_fault h, ih]

/-- `n` pulses of a machine with no fault change the PPU alone. -/
theorem ppuPulses_of_none (n : Nat) {s : State} (h : s.fault = none) :
    ppuPulses n s = s.setPpu (Ppu.tick^[n] s.ppu) := by
  induction n generalizing s with
  | zero => rfl
  | succ n ih =>
    rw [ppuPulses, ppuPulse_of_none h, ih (by exact h)]
    rfl

theorem ppu_ppuPulses (n : Nat) {s : State} (h : s.fault = none) : (ppuPulses n s).ppu = Ppu.tick^[n] s.ppu := by
  rw [ppuPulses_of_none n h]
  rfl

/-- `n` pulses change nothing outside the PPU. -/
theorem ppuPulses_frame (n : Nat) (s : State) : ∃ u, ppuPulses n s = s.setPpu u := by
  cases h : s.fault with
  | none => exact ⟨_, ppuPulses_of_none n h⟩
  | some f => exact ⟨s.ppu, ppuPulses_of_fault n h⟩

@[simp] theorem fault_ppuPulses (n : Nat) (s : State) : (ppuPulses n s).fault = s.fault := by
  obtain ⟨u, hu⟩ := ppuPulses_frame n s
  rw [hu]
  rfl

/-- A property of the PPU that every pulse keeps is kept by a run of pulses. -/
theorem ppuPulses_kept {P : State → Prop} (hP : ∀ s : State, P s → P (s.setPpu s.ppu.tick)) (n : Nat) {s : State}
    (h : P s) : P (ppuPulses n s) := by
  induction n generalizing s with
  | zero => exact h
  | succ n ih =>
    rw [ppuPulses]
    cases hf : s.fault with
    | none => rw [ppuPulse_of_none hf]; exact ih (hP s h)
    | some f => rw [ppuPulse_of_fault hf]; exact ih h

theorem ppuPulses_add (m n : Nat) (s : State) : ppuPulses (m + n) s = ppuPulses n (ppuPulses m s) := by
  induction m generalizing s with
  | zero => simp [ppuPulses]
  | succ m ih => rw [Nat.succ_add, ppuPulses, ppuPulses, ih]

/-- The position after `n` pulses. -/
theorem Ppu.position_ticks {u : Ppu} (hs : u.scanline < scanlines) (hc : u.cycle < lineCycles) (n : Nat) :
    (Ppu.tick^[n] u).scanline < scanlines ∧ (Ppu.tick^[n] u).cycle < lineCycles ∧
      (Ppu.tick^[n] u).position = (u.position + n) % 89342 := by
  have hlt : u.position < 89342 := by
    simp only [Ppu.position, scanlines, lineCycles] at *
    omega
  induction n with
  | zero => exact ⟨hs, hc, by rw [Function.iterate_zero_apply, Nat.add_zero, Nat.mod_eq_of_lt hlt]⟩
  | succ n ih =>
    rw [Function.iterate_succ_apply']
    obtain ⟨h1, h2, h3⟩ := ih
    obtain ⟨h4, h5, h6⟩ := Ppu.position_tick h1 h2
    exact ⟨h4, h5, by omega⟩

/-- A pulse changes status, NMI-pending and the position alone. -/
theorem Ppu.tick_frame (u : Ppu) : u.tick = { u with
    status := u.tick.status, nmiPending := u.tick.nmiPending, scanline := u.tick.scanline, cycle := u.tick.cycle } := by
  rw [Ppu.tick_eq]

end Sys2Proof.Machine
end

