-- ==== Sys2Proof/Laws/Invariant.lean ====
section
/-! SUPPORT. Every memory operation of the machine keeps the canonical form and the sizes of the memories, and the PPU's
registers in their ranges. -/

namespace Sys2Proof.Machine

theorem ramIndex_lt (a : Addr) : ramIndex a < Config.ramSize := Nat.mod_lt _ (by decide)

/-- The nametable fold stays inside VRAM (R276). -/
theorem ntIndex_lt (m : Mirroring) {a : Nat} (h : 0x2000 ≤ a) (h' : a < 0x3000) : ntIndex m a < Config.vramSize := by
  simp only [ntIndex, Config.vramSize]
  cases m <;> simp only <;> omega

/-- The palette fold stays inside palette RAM (R277). -/
theorem palIndex_lt (a : Nat) : palIndex a < Config.paletteSize := by
  simp only [palIndex, Config.paletteSize]
  split <;> omega

/-- `& 0x3FFF` leaves 14 bits. -/
theorem and_3FFF_lt (x : Addr) : (x &&& 0x3FFF#16).toNat < 0x4000 := by
  have : (x &&& 0x3FFF#16).toNat ≤ 0x3FFF := by
    rw [BitVec.toNat_and]
    exact Nat.and_le_right
  omega

theorem Ppu.Wf.advanceVaddr {u : Ppu} (h : u.Wf) : u.advanceVaddr.Wf := ⟨and_3FFF_lt _, h.2⟩

theorem putVblank_false_low {v : Byte} (h : v &&& 0x7F#8 = 0x00#8) : putVblank v false &&& 0x7F#8 = 0x00#8 := by
  simp [putVblank, h]

/-- A Bus read keeps the PPU's ranges. -/
theorem memRead_ppuWf {a : Addr} {s t : State} {v : Byte} (h : s.ppu.Wf) (hr : memRead a s = .ok v t) : t.ppu.Wf := by
  rcases memRead_ok hr with rfl | rfl | rfl | ⟨b, rfl⟩
  · exact h
  · exact h
  · exact ⟨h.1, h.2.1, h.2.2.1, putVblank_false_low h.2.2.2⟩
  · exact (show ({ s.ppu with rbuf := b } : Ppu).Wf from h).advanceVaddr

/-- A Bus read keeps the memories' canonical form and sizes: it changes none of them. -/
theorem memRead_memoriesWf {a : Addr} {s t : State} {v : Byte} (h : s.MemoriesWf) (hr : memRead a s = .ok v t) :
    t.MemoriesWf := by
  rcases memRead_ok hr with rfl | rfl | rfl | ⟨b, rfl⟩ <;> exact h

/-- A Bus write keeps the PPU's ranges. -/
theorem memWrite_ppuWf {a : Addr} {s t : State} {v : Byte} (h : s.ppu.Wf) (hw : memWrite a v s = .ok () t) : t.ppu.Wf := by
  rcases memWrite_ok hw with ⟨-, rfl⟩ | ⟨-, -, hp⟩ | rfl
  · exact h
  · rcases ppuRegWrite_ok hp with rfl | rfl | rfl | rfl | ⟨u, hu, rfl⟩
    · exact h
    · exact h
    · exact h
    · simp only [writeVramAddr]
      split <;> exact ⟨and_3FFF_lt _, h.2⟩
    · rcases ppuWrite_ok hu with ⟨-, -, rfl⟩ | ⟨-, rfl⟩
      · exact (show ({ s.ppu with vram := _ } : Ppu).Wf from h).advanceVaddr
      · exact (show ({ s.ppu with palette := _ } : Ppu).Wf from h).advanceVaddr
  · exact h

/-- A Bus write keeps the memories' canonical form and sizes. -/
theorem memWrite_memoriesWf {a : Addr} {s t : State} {v : Byte} (h : s.MemoriesWf) (hw : memWrite a v s = .ok () t) :
    t.MemoriesWf := by
  obtain ⟨h1, h2, h3, h4, h5, h6, h7, h8⟩ := h
  rcases memWrite_ok hw with ⟨-, rfl⟩ | ⟨-, -, hp⟩ | rfl
  · exact ⟨Memory.wf_write h1 _ _, Memory.within_write h2 (ramIndex_lt a) _, h3, h4, h5, h6, h7, h8⟩
  · rcases ppuRegWrite_ok hp with rfl | rfl | rfl | rfl | ⟨u, hu, rfl⟩
    · exact ⟨h1, h2, h3, h4, h5, h6, h7, h8⟩
    · exact ⟨h1, h2, h3, h4, h5, h6, h7, h8⟩
    · exact ⟨h1, h2, h3, h4, h5, h6, h7, h8⟩
    · unfold writeVramAddr
      split <;> exact ⟨h1, h2, h3, h4, h5, h6, h7, h8⟩
    · rcases ppuWrite_ok hu with ⟨hl, hh, rfl⟩ | ⟨-, rfl⟩
      · exact ⟨h1, h2, Memory.wf_write h3 _ _, Memory.within_write h4 (ntIndex_lt _ hl hh) _, h5, h6, h7, h8⟩
      · exact ⟨h1, h2, h3, h4, h5, h6, Memory.wf_write h7 _ _, Memory.within_write h8 (palIndex_lt _) _⟩
  · exact ⟨h1, h2, h3, h4, h5, h6, h7, h8⟩

/-- Every instruction keeps the memories canonical and inside their sizes, and the PPU's registers in their ranges. -/
theorem kept_memories_and_ppu : Kept fun s => s.MemoriesWf ∧ s.ppu.Wf where
  setA := fun _ _ h => h
  setX := fun _ _ h => h
  setY := fun _ _ h => h
  setSp := fun _ _ h => h
  setPc := fun _ _ h => h
  setP := fun _ _ h _ => h
  setFault := fun _ _ h => h
  read := fun _ _ _ _ h hr => ⟨memRead_memoriesWf h.1 hr, memRead_ppuWf h.2 hr⟩
  write := fun _ _ _ _ h hw => ⟨memWrite_memoriesWf h.1 hw, memWrite_ppuWf h.2 hw⟩

/-- Every Bus access leaves the CPU's registers as they are. -/
theorem memRead_cpu {a : Addr} {s t : State} {v : Byte} (h : memRead a s = .ok v t) :
    t.a = s.a ∧ t.x = s.x ∧ t.y = s.y ∧ t.sp = s.sp ∧ t.pc = s.pc ∧ t.p = s.p ∧ t.cycles = s.cycles := by
  rcases memRead_ok h with rfl | rfl | rfl | ⟨b, rfl⟩ <;> exact ⟨rfl, rfl, rfl, rfl, rfl, rfl, rfl⟩

theorem memWrite_cpu {a : Addr} {s t : State} {v : Byte} (h : memWrite a v s = .ok () t) :
    t.a = s.a ∧ t.x = s.x ∧ t.y = s.y ∧ t.sp = s.sp ∧ t.pc = s.pc ∧ t.p = s.p ∧ t.cycles = s.cycles := by
  rcases memWrite_ok h with ⟨-, rfl⟩ | ⟨-, -, hp⟩ | rfl
  · exact ⟨rfl, rfl, rfl, rfl, rfl, rfl, rfl⟩
  · rcases ppuRegWrite_ok hp with rfl | rfl | rfl | rfl | ⟨u, hu, rfl⟩
    · exact ⟨rfl, rfl, rfl, rfl, rfl, rfl, rfl⟩
    · exact ⟨rfl, rfl, rfl, rfl, rfl, rfl, rfl⟩
    · exact ⟨rfl, rfl, rfl, rfl, rfl, rfl, rfl⟩
    · exact ⟨rfl, rfl, rfl, rfl, rfl, rfl, rfl⟩
    · rcases ppuWrite_ok hu with ⟨-, -, rfl⟩ | ⟨-, rfl⟩ <;> exact ⟨rfl, rfl, rfl, rfl, rfl, rfl, rfl⟩
  · exact ⟨rfl, rfl, rfl, rfl, rfl, rfl, rfl⟩

/-- Every instruction keeps the stored B at 0 and the stored U at 1 (R24), and adds nothing to the counter but what its row and
its form say. -/
theorem kept_stored_flags (n : Nat) : Kept fun s => s.flag .b = false ∧ s.flag .u = true ∧ s.cycles ≤ n where
  setA := fun _ _ h => h
  setX := fun _ _ h => h
  setY := fun _ _ h => h
  setSp := fun _ _ h => h
  setPc := fun _ _ h => h
  setP := by
    rintro s v ⟨hb, hu, hn⟩ hk
    rcases hk with ⟨h1, h2⟩ | ⟨h1, h2⟩
    · exact ⟨h1.trans hb, h2.trans hu, hn⟩
    · exact ⟨h1, h2, hn⟩
  setFault := fun _ _ h => h
  read := by
    rintro a s v t h hr
    obtain ⟨-, -, -, -, -, hp, hc⟩ := memRead_cpu hr
    simpa only [State.flag_def, hp, hc] using h
  write := by
    rintro a v s t h hw
    obtain ⟨-, -, -, -, -, hp, hc⟩ := memWrite_cpu hw
    simpa only [State.flag_def, hp, hc] using h

end Sys2Proof.Machine
end

