-- ==== Sys2Proof/Laws/Operands.lean ====
section
/-! SUPPORT. The operand forms in numbers, and the rows and flags that statements about instructions share. -/

namespace Sys2Proof.Machine

/-- A zero-page pointer: its two bytes, the second at the next address of page 0 (R149, R150). -/
theorem zpPointer_toNat (s : State) (z : Byte) : (zpPointer s z).toNat =
    (s.ram.read z.toNat).toNat + 256 * (s.ram.read ((z.toNat + 1) % 256)).toNat := by
  simp only [zpPointer, hiLo_toNat, BitVec.toNat_add, BitVec.toNat_ofNat, Nat.reducePow, Nat.reduceMod]
  omega

/-- Two addresses differ in their page exactly when their numbers do (R152). -/
theorem hi8_bne_iff (p q : Addr) : (hi8 p != hi8 q) = true ↔ p.toNat / 256 ≠ q.toNat / 256 := by
  rw [bne_iff_ne, Ne, ← BitVec.toNat_inj, hi8_toNat, hi8_toNat]

/-- An instruction whose bytes begin with `o` has `o`'s row. -/
theorem HasRow.of_encode {i : Instr} {o : Byte} {rest : List Byte} {n : Nat} (h : encode i = o :: rest)
    (hb : (opcodeRow o).base = n) : HasRow i o n :=
  ⟨by rw [h]; rfl, by rw [baseCycles_of_encode h, hb]⟩

theorem HasRow.of_readsAs {i : Instr} {r : ReadRow} (h : readsAs i = some r) : HasRow i r.opcode r.base := by
  cases i <;> first | (injection h with h; subst h; exact ⟨rfl, (baseCycles_of_encode rfl).trans rfl⟩) | (injection h)

theorem HasRow.of_storesAs {i : Instr} {r : StoreRow} (h : storesAs i = some r) : HasRow i r.opcode r.base := by
  cases i <;> first | (injection h with h; subst h; exact ⟨rfl, (baseCycles_of_encode rfl).trans rfl⟩) | (injection h)

theorem HasRow.of_modifiesAs {i : Instr} {r : ModifyRow} (h : modifiesAs i = some r) : HasRow i r.opcode r.base := by
  cases i <;> first | (injection h with h; subst h; exact ⟨rfl, (baseCycles_of_encode rfl).trans rfl⟩) | (injection h)

theorem HasRow.of_branchesAs {i : Instr} {r : BranchRow} (h : branchesAs i = some r) : HasRow i r.opcode 2 := by
  cases i <;> first | (injection h with h; subst h; exact ⟨rfl, (baseCycles_of_encode rfl).trans rfl⟩) | (injection h)

/-- No reading operation writes the counter itself. -/
@[simp] theorem ReadOp.apply_cycles (op : ReadOp) (v : Byte) (s : State) : (op.apply v s).cycles = s.cycles := by
  cases op <;> rfl

/-- Z and N of a result (R127). -/
theorem FlagsBecome.setZN {s t : State} {r : Byte} (h : t.p = setZN r s.p) :
    FlagsBecome s t [(.z, r == 0x00#8), (.n, r.getLsbD 7)] := by
  intro f
  rw [State.flag_def, h, getFlag_setZN]
  cases f <;> rfl

end Sys2Proof.Machine
end

