-- ==== Sys2Proof/Laws/PerInstr.lean ====
section
/-! SUPPORT. Facts about every instruction, one lemma for each constructor. `EncodedLength`: the bytes of a well-formed instruction are one opcode
byte and as many operand bytes as the mode of its opcode's row has (spec/30_encoding.md R100, R101). -/

namespace Sys2Proof.Laws.EncodedLength

def Statement (i : Instr) : Prop :=
  i.wf = true → (encode i).length = 1 + (opcodeRow ((encode i).headD 0#8)).mode.operandBytes

/-- The length and the row, once the opcode byte is known. -/
theorem ofRow {i : Instr} (h : (encode i).length = 1 + (opcodeRow ((encode i).headD 0#8)).mode.operandBytes) :
    Statement i := fun _ => h

theorem ldaImm (n : Byte) : Statement (.ldaImm n) := ofRow (by decide : 2 = 1 + (opcodeRow 0xA9#8).mode.operandBytes)
theorem ldaZp (z : Byte) : Statement (.ldaZp z) := ofRow (by decide : 2 = 1 + (opcodeRow 0xA5#8).mode.operandBytes)
theorem ldaZpx (z : Byte) : Statement (.ldaZpx z) := ofRow (by decide : 2 = 1 + (opcodeRow 0xB5#8).mode.operandBytes)
theorem ldaAbs (addr : Addr) : Statement (.ldaAbs addr) := ofRow (by decide : 3 = 1 + (opcodeRow 0xAD#8).mode.operandBytes)
theorem ldaAbx (addr : Addr) : Statement (.ldaAbx addr) := ofRow (by decide : 3 = 1 + (opcodeRow 0xBD#8).mode.operandBytes)
theorem ldaAby (addr : Addr) : Statement (.ldaAby addr) := ofRow (by decide : 3 = 1 + (opcodeRow 0xB9#8).mode.operandBytes)
theorem ldaIzx (z : Byte) : Statement (.ldaIzx z) := ofRow (by decide : 2 = 1 + (opcodeRow 0xA1#8).mode.operandBytes)
theorem ldaIzy (z : Byte) : Statement (.ldaIzy z) := ofRow (by decide : 2 = 1 + (opcodeRow 0xB1#8).mode.operandBytes)
theorem ldxImm (n : Byte) : Statement (.ldxImm n) := ofRow (by decide : 2 = 1 + (opcodeRow 0xA2#8).mode.operandBytes)
theorem ldxZp (z : Byte) : Statement (.ldxZp z) := ofRow (by decide : 2 = 1 + (opcodeRow 0xA6#8).mode.operandBytes)
theorem ldxZpy (z : Byte) : Statement (.ldxZpy z) := ofRow (by decide : 2 = 1 + (opcodeRow 0xB6#8).mode.operandBytes)
theorem ldxAbs (addr : Addr) : Statement (.ldxAbs addr) := ofRow (by decide : 3 = 1 + (opcodeRow 0xAE#8).mode.operandBytes)
theorem ldxAby (addr : Addr) : Statement (.ldxAby addr) := ofRow (by decide : 3 = 1 + (opcodeRow 0xBE#8).mode.operandBytes)
theorem ldyImm (n : Byte) : Statement (.ldyImm n) := ofRow (by decide : 2 = 1 + (opcodeRow 0xA0#8).mode.operandBytes)
theorem ldyZp (z : Byte) : Statement (.ldyZp z) := ofRow (by decide : 2 = 1 + (opcodeRow 0xA4#8).mode.operandBytes)
theorem ldyZpx (z : Byte) : Statement (.ldyZpx z) := ofRow (by decide : 2 = 1 + (opcodeRow 0xB4#8).mode.operandBytes)
theorem ldyAbs (addr : Addr) : Statement (.ldyAbs addr) := ofRow (by decide : 3 = 1 + (opcodeRow 0xAC#8).mode.operandBytes)
theorem ldyAbx (addr : Addr) : Statement (.ldyAbx addr) := ofRow (by decide : 3 = 1 + (opcodeRow 0xBC#8).mode.operandBytes)
theorem staZp (z : Byte) : Statement (.staZp z) := ofRow (by decide : 2 = 1 + (opcodeRow 0x85#8).mode.operandBytes)
theorem staZpx (z : Byte) : Statement (.staZpx z) := ofRow (by decide : 2 = 1 + (opcodeRow 0x95#8).mode.operandBytes)
theorem staAbs (addr : Addr) : Statement (.staAbs addr) := ofRow (by decide : 3 = 1 + (opcodeRow 0x8D#8).mode.operandBytes)
theorem staAbx (addr : Addr) : Statement (.staAbx addr) := ofRow (by decide : 3 = 1 + (opcodeRow 0x9D#8).mode.operandBytes)
theorem staAby (addr : Addr) : Statement (.staAby addr) := ofRow (by decide : 3 = 1 + (opcodeRow 0x99#8).mode.operandBytes)
theorem staIzx (z : Byte) : Statement (.staIzx z) := ofRow (by decide : 2 = 1 + (opcodeRow 0x81#8).mode.operandBytes)
theorem staIzy (z : Byte) : Statement (.staIzy z) := ofRow (by decide : 2 = 1 + (opcodeRow 0x91#8).mode.operandBytes)
theorem stxZp (z : Byte) : Statement (.stxZp z) := ofRow (by decide : 2 = 1 + (opcodeRow 0x86#8).mode.operandBytes)
theorem stxZpy (z : Byte) : Statement (.stxZpy z) := ofRow (by decide : 2 = 1 + (opcodeRow 0x96#8).mode.operandBytes)
theorem stxAbs (addr : Addr) : Statement (.stxAbs addr) := ofRow (by decide : 3 = 1 + (opcodeRow 0x8E#8).mode.operandBytes)
theorem styZp (z : Byte) : Statement (.styZp z) := ofRow (by decide : 2 = 1 + (opcodeRow 0x84#8).mode.operandBytes)
theorem styZpx (z : Byte) : Statement (.styZpx z) := ofRow (by decide : 2 = 1 + (opcodeRow 0x94#8).mode.operandBytes)
theorem styAbs (addr : Addr) : Statement (.styAbs addr) := ofRow (by decide : 3 = 1 + (opcodeRow 0x8C#8).mode.operandBytes)
theorem tax : Statement (.tax) := ofRow (by decide : 1 = 1 + (opcodeRow 0xAA#8).mode.operandBytes)
theorem tay : Statement (.tay) := ofRow (by decide : 1 = 1 + (opcodeRow 0xA8#8).mode.operandBytes)
theorem tsx : Statement (.tsx) := ofRow (by decide : 1 = 1 + (opcodeRow 0xBA#8).mode.operandBytes)
theorem txa : Statement (.txa) := ofRow (by decide : 1 = 1 + (opcodeRow 0x8A#8).mode.operandBytes)
theorem txs : Statement (.txs) := ofRow (by decide : 1 = 1 + (opcodeRow 0x9A#8).mode.operandBytes)
theorem tya : Statement (.tya) := ofRow (by decide : 1 = 1 + (opcodeRow 0x98#8).mode.operandBytes)
theorem adcImm (n : Byte) : Statement (.adcImm n) := ofRow (by decide : 2 = 1 + (opcodeRow 0x69#8).mode.operandBytes)
theorem adcZp (z : Byte) : Statement (.adcZp z) := ofRow (by decide : 2 = 1 + (opcodeRow 0x65#8).mode.operandBytes)
theorem adcZpx (z : Byte) : Statement (.adcZpx z) := ofRow (by decide : 2 = 1 + (opcodeRow 0x75#8).mode.operandBytes)
theorem adcAbs (addr : Addr) : Statement (.adcAbs addr) := ofRow (by decide : 3 = 1 + (opcodeRow 0x6D#8).mode.operandBytes)
theorem adcAbx (addr : Addr) : Statement (.adcAbx addr) := ofRow (by decide : 3 = 1 + (opcodeRow 0x7D#8).mode.operandBytes)
theorem adcAby (addr : Addr) : Statement (.adcAby addr) := ofRow (by decide : 3 = 1 + (opcodeRow 0x79#8).mode.operandBytes)
theorem adcIzx (z : Byte) : Statement (.adcIzx z) := ofRow (by decide : 2 = 1 + (opcodeRow 0x61#8).mode.operandBytes)
theorem adcIzy (z : Byte) : Statement (.adcIzy z) := ofRow (by decide : 2 = 1 + (opcodeRow 0x71#8).mode.operandBytes)
theorem sbcImm (n : Byte) : Statement (.sbcImm n) := ofRow (by decide : 2 = 1 + (opcodeRow 0xE9#8).mode.operandBytes)
theorem sbcZp (z : Byte) : Statement (.sbcZp z) := ofRow (by decide : 2 = 1 + (opcodeRow 0xE5#8).mode.operandBytes)
theorem sbcZpx (z : Byte) : Statement (.sbcZpx z) := ofRow (by decide : 2 = 1 + (opcodeRow 0xF5#8).mode.operandBytes)
theorem sbcAbs (addr : Addr) : Statement (.sbcAbs addr) := ofRow (by decide : 3 = 1 + (opcodeRow 0xED#8).mode.operandBytes)
theorem sbcAbx (addr : Addr) : Statement (.sbcAbx addr) := ofRow (by decide : 3 = 1 + (opcodeRow 0xFD#8).mode.operandBytes)
theorem sbcAby (addr : Addr) : Statement (.sbcAby addr) := ofRow (by decide : 3 = 1 + (opcodeRow 0xF9#8).mode.operandBytes)
theorem sbcIzx (z : Byte) : Statement (.sbcIzx z) := ofRow (by decide : 2 = 1 + (opcodeRow 0xE1#8).mode.operandBytes)
theorem sbcIzy (z : Byte) : Statement (.sbcIzy z) := ofRow (by decide : 2 = 1 + (opcodeRow 0xF1#8).mode.operandBytes)
theorem andImm (n : Byte) : Statement (.andImm n) := ofRow (by decide : 2 = 1 + (opcodeRow 0x29#8).mode.operandBytes)
theorem andZp (z : Byte) : Statement (.andZp z) := ofRow (by decide : 2 = 1 + (opcodeRow 0x25#8).mode.operandBytes)
theorem andZpx (z : Byte) : Statement (.andZpx z) := ofRow (by decide : 2 = 1 + (opcodeRow 0x35#8).mode.operandBytes)
theorem andAbs (addr : Addr) : Statement (.andAbs addr) := ofRow (by decide : 3 = 1 + (opcodeRow 0x2D#8).mode.operandBytes)
theorem andAbx (addr : Addr) : Statement (.andAbx addr) := ofRow (by decide : 3 = 1 + (opcodeRow 0x3D#8).mode.operandBytes)
theorem andAby (addr : Addr) : Statement (.andAby addr) := ofRow (by decide : 3 = 1 + (opcodeRow 0x39#8).mode.operandBytes)
theorem andIzx (z : Byte) : Statement (.andIzx z) := ofRow (by decide : 2 = 1 + (opcodeRow 0x21#8).mode.operandBytes)
theorem andIzy (z : Byte) : Statement (.andIzy z) := ofRow (by decide : 2 = 1 + (opcodeRow 0x31#8).mode.operandBytes)
theorem oraImm (n : Byte) : Statement (.oraImm n) := ofRow (by decide : 2 = 1 + (opcodeRow 0x09#8).mode.operandBytes)
theorem oraZp (z : Byte) : Statement (.oraZp z) := ofRow (by decide : 2 = 1 + (opcodeRow 0x05#8).mode.operandBytes)
theorem oraZpx (z : Byte) : Statement (.oraZpx z) := ofRow (by decide : 2 = 1 + (opcodeRow 0x15#8).mode.operandBytes)
theorem oraAbs (addr : Addr) : Statement (.oraAbs addr) := ofRow (by decide : 3 = 1 + (opcodeRow 0x0D#8).mode.operandBytes)
theorem oraAbx (addr : Addr) : Statement (.oraAbx addr) := ofRow (by decide : 3 = 1 + (opcodeRow 0x1D#8).mode.operandBytes)
theorem oraAby (addr : Addr) : Statement (.oraAby addr) := ofRow (by decide : 3 = 1 + (opcodeRow 0x19#8).mode.operandBytes)
theorem oraIzx (z : Byte) : Statement (.oraIzx z) := ofRow (by decide : 2 = 1 + (opcodeRow 0x01#8).mode.operandBytes)
theorem oraIzy (z : Byte) : Statement (.oraIzy z) := ofRow (by decide : 2 = 1 + (opcodeRow 0x11#8).mode.operandBytes)
theorem eorImm (n : Byte) : Statement (.eorImm n) := ofRow (by decide : 2 = 1 + (opcodeRow 0x49#8).mode.operandBytes)
theorem eorZp (z : Byte) : Statement (.eorZp z) := ofRow (by decide : 2 = 1 + (opcodeRow 0x45#8).mode.operandBytes)
theorem eorZpx (z : Byte) : Statement (.eorZpx z) := ofRow (by decide : 2 = 1 + (opcodeRow 0x55#8).mode.operandBytes)
theorem eorAbs (addr : Addr) : Statement (.eorAbs addr) := ofRow (by decide : 3 = 1 + (opcodeRow 0x4D#8).mode.operandBytes)
theorem eorAbx (addr : Addr) : Statement (.eorAbx addr) := ofRow (by decide : 3 = 1 + (opcodeRow 0x5D#8).mode.operandBytes)
theorem eorAby (addr : Addr) : Statement (.eorAby addr) := ofRow (by decide : 3 = 1 + (opcodeRow 0x59#8).mode.operandBytes)
theorem eorIzx (z : Byte) : Statement (.eorIzx z) := ofRow (by decide : 2 = 1 + (opcodeRow 0x41#8).mode.operandBytes)
theorem eorIzy (z : Byte) : Statement (.eorIzy z) := ofRow (by decide : 2 = 1 + (opcodeRow 0x51#8).mode.operandBytes)
theorem bitZp (z : Byte) : Statement (.bitZp z) := ofRow (by decide : 2 = 1 + (opcodeRow 0x24#8).mode.operandBytes)
theorem bitAbs (addr : Addr) : Statement (.bitAbs addr) := ofRow (by decide : 3 = 1 + (opcodeRow 0x2C#8).mode.operandBytes)
theorem cmpImm (n : Byte) : Statement (.cmpImm n) := ofRow (by decide : 2 = 1 + (opcodeRow 0xC9#8).mode.operandBytes)
theorem cmpZp (z : Byte) : Statement (.cmpZp z) := ofRow (by decide : 2 = 1 + (opcodeRow 0xC5#8).mode.operandBytes)
theorem cmpZpx (z : Byte) : Statement (.cmpZpx z) := ofRow (by decide : 2 = 1 + (opcodeRow 0xD5#8).mode.operandBytes)
theorem cmpAbs (addr : Addr) : Statement (.cmpAbs addr) := ofRow (by decide : 3 = 1 + (opcodeRow 0xCD#8).mode.operandBytes)
theorem cmpAbx (addr : Addr) : Statement (.cmpAbx addr) := ofRow (by decide : 3 = 1 + (opcodeRow 0xDD#8).mode.operandBytes)
theorem cmpAby (addr : Addr) : Statement (.cmpAby addr) := ofRow (by decide : 3 = 1 + (opcodeRow 0xD9#8).mode.operandBytes)
theorem cmpIzx (z : Byte) : Statement (.cmpIzx z) := ofRow (by decide : 2 = 1 + (opcodeRow 0xC1#8).mode.operandBytes)
theorem cmpIzy (z : Byte) : Statement (.cmpIzy z) := ofRow (by decide : 2 = 1 + (opcodeRow 0xD1#8).mode.operandBytes)
theorem cpxImm (n : Byte) : Statement (.cpxImm n) := ofRow (by decide : 2 = 1 + (opcodeRow 0xE0#8).mode.operandBytes)
theorem cpxZp (z : Byte) : Statement (.cpxZp z) := ofRow (by decide : 2 = 1 + (opcodeRow 0xE4#8).mode.operandBytes)
theorem cpxAbs (addr : Addr) : Statement (.cpxAbs addr) := ofRow (by decide : 3 = 1 + (opcodeRow 0xEC#8).mode.operandBytes)
theorem cpyImm (n : Byte) : Statement (.cpyImm n) := ofRow (by decide : 2 = 1 + (opcodeRow 0xC0#8).mode.operandBytes)
theorem cpyZp (z : Byte) : Statement (.cpyZp z) := ofRow (by decide : 2 = 1 + (opcodeRow 0xC4#8).mode.operandBytes)
theorem cpyAbs (addr : Addr) : Statement (.cpyAbs addr) := ofRow (by decide : 3 = 1 + (opcodeRow 0xCC#8).mode.operandBytes)
theorem incZp (z : Byte) : Statement (.incZp z) := ofRow (by decide : 2 = 1 + (opcodeRow 0xE6#8).mode.operandBytes)
theorem incZpx (z : Byte) : Statement (.incZpx z) := ofRow (by decide : 2 = 1 + (opcodeRow 0xF6#8).mode.operandBytes)
theorem incAbs (addr : Addr) : Statement (.incAbs addr) := ofRow (by decide : 3 = 1 + (opcodeRow 0xEE#8).mode.operandBytes)
theorem incAbx (addr : Addr) : Statement (.incAbx addr) := ofRow (by decide : 3 = 1 + (opcodeRow 0xFE#8).mode.operandBytes)
theorem decZp (z : Byte) : Statement (.decZp z) := ofRow (by decide : 2 = 1 + (opcodeRow 0xC6#8).mode.operandBytes)
theorem decZpx (z : Byte) : Statement (.decZpx z) := ofRow (by decide : 2 = 1 + (opcodeRow 0xD6#8).mode.operandBytes)
theorem decAbs (addr : Addr) : Statement (.decAbs addr) := ofRow (by decide : 3 = 1 + (opcodeRow 0xCE#8).mode.operandBytes)
theorem decAbx (addr : Addr) : Statement (.decAbx addr) := ofRow (by decide : 3 = 1 + (opcodeRow 0xDE#8).mode.operandBytes)
theorem inx : Statement (.inx) := ofRow (by decide : 1 = 1 + (opcodeRow 0xE8#8).mode.operandBytes)
theorem iny : Statement (.iny) := ofRow (by decide : 1 = 1 + (opcodeRow 0xC8#8).mode.operandBytes)
theorem dex : Statement (.dex) := ofRow (by decide : 1 = 1 + (opcodeRow 0xCA#8).mode.operandBytes)
theorem dey : Statement (.dey) := ofRow (by decide : 1 = 1 + (opcodeRow 0x88#8).mode.operandBytes)
theorem aslAcc : Statement (.aslAcc) := ofRow (by decide : 1 = 1 + (opcodeRow 0x0A#8).mode.operandBytes)
theorem aslZp (z : Byte) : Statement (.aslZp z) := ofRow (by decide : 2 = 1 + (opcodeRow 0x06#8).mode.operandBytes)
theorem aslZpx (z : Byte) : Statement (.aslZpx z) := ofRow (by decide : 2 = 1 + (opcodeRow 0x16#8).mode.operandBytes)
theorem aslAbs (addr : Addr) : Statement (.aslAbs addr) := ofRow (by decide : 3 = 1 + (opcodeRow 0x0E#8).mode.operandBytes)
theorem aslAbx (addr : Addr) : Statement (.aslAbx addr) := ofRow (by decide : 3 = 1 + (opcodeRow 0x1E#8).mode.operandBytes)
theorem lsrAcc : Statement (.lsrAcc) := ofRow (by decide : 1 = 1 + (opcodeRow 0x4A#8).mode.operandBytes)
theorem lsrZp (z : Byte) : Statement (.lsrZp z) := ofRow (by decide : 2 = 1 + (opcodeRow 0x46#8).mode.operandBytes)
theorem lsrZpx (z : Byte) : Statement (.lsrZpx z) := ofRow (by decide : 2 = 1 + (opcodeRow 0x56#8).mode.operandBytes)
theorem lsrAbs (addr : Addr) : Statement (.lsrAbs addr) := ofRow (by decide : 3 = 1 + (opcodeRow 0x4E#8).mode.operandBytes)
theorem lsrAbx (addr : Addr) : Statement (.lsrAbx addr) := ofRow (by decide : 3 = 1 + (opcodeRow 0x5E#8).mode.operandBytes)
theorem rolAcc : Statement (.rolAcc) := ofRow (by decide : 1 = 1 + (opcodeRow 0x2A#8).mode.operandBytes)
theorem rolZp (z : Byte) : Statement (.rolZp z) := ofRow (by decide : 2 = 1 + (opcodeRow 0x26#8).mode.operandBytes)
theorem rolZpx (z : Byte) : Statement (.rolZpx z) := ofRow (by decide : 2 = 1 + (opcodeRow 0x36#8).mode.operandBytes)
theorem rolAbs (addr : Addr) : Statement (.rolAbs addr) := ofRow (by decide : 3 = 1 + (opcodeRow 0x2E#8).mode.operandBytes)
theorem rolAbx (addr : Addr) : Statement (.rolAbx addr) := ofRow (by decide : 3 = 1 + (opcodeRow 0x3E#8).mode.operandBytes)
theorem rorAcc : Statement (.rorAcc) := ofRow (by decide : 1 = 1 + (opcodeRow 0x6A#8).mode.operandBytes)
theorem rorZp (z : Byte) : Statement (.rorZp z) := ofRow (by decide : 2 = 1 + (opcodeRow 0x66#8).mode.operandBytes)
theorem rorZpx (z : Byte) : Statement (.rorZpx z) := ofRow (by decide : 2 = 1 + (opcodeRow 0x76#8).mode.operandBytes)
theorem rorAbs (addr : Addr) : Statement (.rorAbs addr) := ofRow (by decide : 3 = 1 + (opcodeRow 0x6E#8).mode.operandBytes)
theorem rorAbx (addr : Addr) : Statement (.rorAbx addr) := ofRow (by decide : 3 = 1 + (opcodeRow 0x7E#8).mode.operandBytes)
theorem bcc (r : Byte) : Statement (.bcc r) := ofRow (by decide : 2 = 1 + (opcodeRow 0x90#8).mode.operandBytes)
theorem bcs (r : Byte) : Statement (.bcs r) := ofRow (by decide : 2 = 1 + (opcodeRow 0xB0#8).mode.operandBytes)
theorem beq (r : Byte) : Statement (.beq r) := ofRow (by decide : 2 = 1 + (opcodeRow 0xF0#8).mode.operandBytes)
theorem bmi (r : Byte) : Statement (.bmi r) := ofRow (by decide : 2 = 1 + (opcodeRow 0x30#8).mode.operandBytes)
theorem bne (r : Byte) : Statement (.bne r) := ofRow (by decide : 2 = 1 + (opcodeRow 0xD0#8).mode.operandBytes)
theorem bpl (r : Byte) : Statement (.bpl r) := ofRow (by decide : 2 = 1 + (opcodeRow 0x10#8).mode.operandBytes)
theorem bvc (r : Byte) : Statement (.bvc r) := ofRow (by decide : 2 = 1 + (opcodeRow 0x50#8).mode.operandBytes)
theorem bvs (r : Byte) : Statement (.bvs r) := ofRow (by decide : 2 = 1 + (opcodeRow 0x70#8).mode.operandBytes)
theorem jmpAbs (addr : Addr) : Statement (.jmpAbs addr) := ofRow (by decide : 3 = 1 + (opcodeRow 0x4C#8).mode.operandBytes)
theorem jmpInd (ptr : Addr) : Statement (.jmpInd ptr) := ofRow (by decide : 3 = 1 + (opcodeRow 0x6C#8).mode.operandBytes)
theorem jsr (addr : Addr) : Statement (.jsr addr) := ofRow (by decide : 3 = 1 + (opcodeRow 0x20#8).mode.operandBytes)
theorem rts : Statement (.rts) := ofRow (by decide : 1 = 1 + (opcodeRow 0x60#8).mode.operandBytes)
theorem pha : Statement (.pha) := ofRow (by decide : 1 = 1 + (opcodeRow 0x48#8).mode.operandBytes)
theorem php : Statement (.php) := ofRow (by decide : 1 = 1 + (opcodeRow 0x08#8).mode.operandBytes)
theorem pla : Statement (.pla) := ofRow (by decide : 1 = 1 + (opcodeRow 0x68#8).mode.operandBytes)
theorem plp : Statement (.plp) := ofRow (by decide : 1 = 1 + (opcodeRow 0x28#8).mode.operandBytes)
theorem clc : Statement (.clc) := ofRow (by decide : 1 = 1 + (opcodeRow 0x18#8).mode.operandBytes)
theorem cld : Statement (.cld) := ofRow (by decide : 1 = 1 + (opcodeRow 0xD8#8).mode.operandBytes)
theorem cli : Statement (.cli) := ofRow (by decide : 1 = 1 + (opcodeRow 0x58#8).mode.operandBytes)
theorem clv : Statement (.clv) := ofRow (by decide : 1 = 1 + (opcodeRow 0xB8#8).mode.operandBytes)
theorem sec : Statement (.sec) := ofRow (by decide : 1 = 1 + (opcodeRow 0x38#8).mode.operandBytes)
theorem sed : Statement (.sed) := ofRow (by decide : 1 = 1 + (opcodeRow 0xF8#8).mode.operandBytes)
theorem sei : Statement (.sei) := ofRow (by decide : 1 = 1 + (opcodeRow 0x78#8).mode.operandBytes)
theorem nop : Statement (.nop) := ofRow (by decide : 1 = 1 + (opcodeRow 0xEA#8).mode.operandBytes)
theorem brk : Statement (.brk) := ofRow (by decide : 1 = 1 + (opcodeRow 0x00#8).mode.operandBytes)
theorem rti : Statement (.rti) := ofRow (by decide : 1 = 1 + (opcodeRow 0x40#8).mode.operandBytes)
theorem illegal (opcode : Byte) : Statement (.illegal opcode) := fun h => by
  show 1 = 1 + (opcodeRow opcode).mode.operandBytes
  rw [opcodeRow_illegal opcode h]
  rfl

end Sys2Proof.Laws.EncodedLength
end

