-- ==== Sys2Proof/Laws/Pulse.lean ====
section
/-! SUPPORT. The fetch, the boundary and the pulse: what a fetch in RAM or ROM delivers, what the counter is after a fetch, and the
closure of a step under the properties that its parts keep. -/

namespace Sys2Proof.Machine

/-- `b` is read wherever a mode needs at least one operand byte. -/
theorem fetchByte_plain {s : State} (h : PlainAddr s.pc) :
    fetchByte s = .ok (s.byteAt s.pc) (s.setPc (s.pc + 1#16)) := by
  simp [fetchByte, memRead_plain h]

/-- The operand bytes of a row whose mode needs them, in RAM or ROM: PC goes past them. -/
theorem fetchOperands_plain (row : Row) {s : State}
    (h : ∀ k, k < row.mode.operandBytes → PlainAddr (s.pc + BitVec.ofNat 16 k))
    (hb : ∀ b b' c c', (row.mode.operandBytes = 0 → row.build b c = row.build b' c') ∧
      (row.mode.operandBytes = 1 → row.build b c = row.build b c')) :
    fetchOperands row s = .ok (row.build (s.byteAt s.pc) (s.byteAt (s.pc + 1#16)))
      (s.setPc (s.pc + BitVec.ofNat 16 row.mode.operandBytes)) := by
  have h0 : 0 < row.mode.operandBytes → PlainAddr s.pc := fun hk => by simpa using h 0 hk
  have h1 : 1 < row.mode.operandBytes → PlainAddr (s.pc + 1#16) := fun hk => h 1 hk
  have key : ∀ b c, (row.mode.operandBytes = 0 → row.build 0#8 0#8 = row.build b c) ∧
      (row.mode.operandBytes = 1 → row.build b 0#8 = row.build b c) := fun b c =>
    ⟨fun hz => (hb 0#8 b 0#8 c).1 hz, fun ho => (hb b b 0#8 c).2 ho⟩
  unfold fetchOperands
  cases hm : row.mode <;> simp only [hm, Mode.operandBytes] at h0 h1 key ⊢
  case imp => rw [(key (s.byteAt s.pc) (s.byteAt (s.pc + 1#16))).1 trivial]; simp [State.setPc]
  case imm =>
    rw [fetchImmediate, memRead_plain (h0 (by decide)), Bus.ok_andThen, (key _ (s.byteAt (s.pc + 1#16))).2 trivial]
    rfl
  case zp | zpx | zpy | izx | izy | rel =>
    rw [fetchByte_plain (h0 (by decide)), Bus.ok_andThen, (key _ (s.byteAt (s.pc + 1#16))).2 trivial]
  case abs | abx | aby | ind =>
    rw [fetchByte_plain (h0 (by decide)), Bus.ok_andThen, fetchByte_plain (h1 (by decide)), Bus.ok_andThen]
    simp [State.setPc, State.byteAt, BitVec.add_assoc]

/-- One operand byte at PC: wherever it lies, the read that delivers it leaves PC where it was. -/
theorem fetchByte_eq (s : State) : fetchByte s = (memRead s.pc s).andThen fun v t => .ok v (t.setPc (s.pc + 1#16)) := by
  unfold fetchByte
  cases h : memRead s.pc s with
  | ok v t => simp [(memRead_cpu h).2.2.2.2.1]
  | stop t => rfl

/-- The operand bytes of a row whose mode has none. -/
theorem fetchOperands_zero {row : Row} (h : row.mode.operandBytes = 0) (s : State) :
    fetchOperands row s = .ok (row.build 0x00#8 0x00#8) s := by
  unfold fetchOperands
  cases hm : row.mode <;> rw [hm] at h <;> first | rfl | cases h

/-- The operand byte of a row whose mode has one, wherever it lies: PC is past it at the read in the immediate mode (R141), and at it in the
others (R142–R151). -/
theorem fetchOperands_one {row : Row} (h : row.mode.operandBytes = 1) (s : State) :
    fetchOperands row s = (memRead s.pc (if row.mode = .imm then s.setPc (s.pc + 1#16) else s)).andThen fun b t =>
      .ok (row.build b 0x00#8) (t.setPc (s.pc + 1#16)) := by
  unfold fetchOperands
  cases hm : row.mode <;> rw [hm] at h <;> cases h
  case imm.refl =>
    rw [if_pos rfl, fetchImmediate]
    cases hr : memRead s.pc (s.setPc (s.pc + 1#16)) with
    | ok b t =>
      have : t.pc = s.pc + 1#16 := (memRead_cpu hr).2.2.2.2.1
      simp [State.setPc, ← this]
    | stop t => rfl
  all_goals
    rw [if_neg (by decide), fetchByte_eq]
    cases memRead s.pc s <;> rfl

/-- The operand bytes of a row whose mode has two, wherever they lie. -/
theorem fetchOperands_two {row : Row} (h : row.mode.operandBytes = 2) (s : State) :
    fetchOperands row s = (memRead s.pc s).andThen fun l t =>
      (memRead (s.pc + 1#16) (t.setPc (s.pc + 1#16))).andThen fun v u =>
        .ok (row.build l v) (u.setPc (s.pc + 2#16)) := by
  have e : s.pc + 1#16 + 1#16 = s.pc + 2#16 := by rw [BitVec.add_assoc]; rfl
  unfold fetchOperands
  cases hm : row.mode <;> rw [hm] at h <;> cases h
  all_goals
    dsimp only
    rw [fetchByte_eq]
    cases memRead s.pc s with
    | stop t => rfl
    | ok l t =>
      dsimp only [Bus.ok_andThen, Bus.andThen]
      rw [fetchByte_eq, show (t.setPc (s.pc + 1#16)).pc = s.pc + 1#16 from rfl, e]
      cases memRead (s.pc + 1#16) (t.setPc (s.pc + 1#16)) <;> rfl

/-- A row ignores the operand bytes its mode does not have. -/
theorem build_ignores (o b b' c c' : Byte) :
    ((opcodeRow o).mode.operandBytes = 0 → (opcodeRow o).build b c = (opcodeRow o).build b' c') ∧
      ((opcodeRow o).mode.operandBytes = 1 → (opcodeRow o).build b c = (opcodeRow o).build b c') := by
  obtain ⟨n, h, rfl⟩ : ∃ n, n < 256 ∧ o = BitVec.ofNat 8 n := ⟨o.toNat, o.isLt, by simp⟩
  interval_cases n <;> refine ⟨fun h => ?_, fun h => ?_⟩ <;> first | rfl | cases h

/-- The fetch of an instruction whose bytes lie in RAM or ROM. -/
theorem fetchInstr_plain {s : State}
    (h : ∀ k, k < (opcodeRow (s.byteAt s.pc)).mode.operandBytes + 1 → PlainAddr (s.pc + BitVec.ofNat 16 k)) :
    fetchInstr s = .ok
      ((opcodeRow (s.byteAt s.pc)).build (s.byteAt (s.pc + 1#16)) (s.byteAt (s.pc + 2#16)))
      { s with pc := s.pc + BitVec.ofNat 16 ((opcodeRow (s.byteAt s.pc)).mode.operandBytes + 1),
               cycles := (opcodeRow (s.byteAt s.pc)).base } := by
  have h0 : PlainAddr s.pc := by simpa using h 0 (by omega)
  have e : ∀ k, s.pc + 1#16 + BitVec.ofNat 16 k = s.pc + BitVec.ofNat 16 (k + 1) := by
    intro k
    apply BitVec.eq_of_toNat_eq
    simp only [BitVec.toNat_add, BitVec.toNat_ofNat]
    omega
  rw [fetchInstr, fetchByte_plain h0, Bus.ok_andThen, fetchOperands_plain]
  · rw [← e (opcodeRow (s.byteAt s.pc)).mode.operandBytes, show s.pc + 2#16 = s.pc + 1#16 + 1#16 from (e 1).symm]
    rfl
  · intro k hk
    have := h (k + 1) (by omega)
    rwa [← e] at this
  · intro b b' c c'
    exact build_ignores _ b b' c c'

/-- The counter after a fetch that delivers is the base count of the instruction (R121, R123). -/
theorem fetchInstr_cycles {s t : State} {i : Instr} (h : fetchInstr s = .ok i t) : t.cycles = i.baseCycles := by
  have hbyte : ∀ {s t : State} {v : Byte}, fetchByte s = .ok v t → t.cycles = s.cycles := by
    intro s t v hf
    obtain ⟨w, u, hr, hk⟩ := Bus.andThen_eq_ok.mp hf
    cases hk
    exact (memRead_cpu hr).2.2.2.2.2.2
  have hcyc : ∀ {o : Byte} {s t : State} {i : Instr}, fetchOperands (opcodeRow o) s = .ok i t →
      t.cycles = s.cycles ∧ i.baseCycles = (opcodeRow o).base := by
    intro o s t i hf
    unfold fetchOperands at hf
    split at hf
    · cases hf
      exact ⟨rfl, baseCycles_build o _ _⟩
    · obtain ⟨w, u, hr, hk⟩ := Bus.andThen_eq_ok.mp hf
      cases hk
      exact ⟨(memRead_cpu hr).2.2.2.2.2.2, baseCycles_build o _ _⟩
    all_goals first
      | (obtain ⟨w, u, hr, hk⟩ := Bus.andThen_eq_ok.mp hf
         cases hk
         exact ⟨hbyte hr, baseCycles_build o _ _⟩)
      | (obtain ⟨w, u, hr, hk⟩ := Bus.andThen_eq_ok.mp hf
         obtain ⟨w', u', hr', hk'⟩ := Bus.andThen_eq_ok.mp hk
         cases hk'
         exact ⟨(hbyte hr').trans (hbyte hr), baseCycles_build o _ _⟩)
  obtain ⟨o, u, -, hk⟩ := Bus.andThen_eq_ok.mp h
  obtain ⟨h1, h2⟩ := hcyc hk
  rw [h1, h2]
  rfl

/-- A boundary with NMI-pending set (R121, R310). -/
theorem boundary_nmi {s : State} (h : s.ppu.nmiPending = true) (line : Bool) :
    boundary line s = finish (interruptEntry .nmi (s.setNmiPending false)) := if_pos h

/-- A boundary that takes an IRQ (R121, R311). -/
theorem boundary_irq {s : State} (h : s.ppu.nmiPending = false) (hi : s.flag .i = false) :
    boundary true s = finish (interruptEntry .irq s) := by
  rw [boundary, if_neg (by simp [h]), if_pos (by simp [hi])]

/-- A boundary that fetches (R121). -/
theorem boundary_fetch {s : State} {line : Bool} (h : s.ppu.nmiPending = false) (hl : line = false ∨ s.flag .i = true) :
    boundary line s = match fetchInstr s with
      | .ok i t => exec i t
      | .stop t => .next t := by
  have hx : ¬(line && !s.flag .i) = true := by rcases hl with hl | hl <;> simp [hl]
  exact (if_neg (by simp [h])).trans (if_neg hx)

/-- A pulse of a running machine at a boundary. -/
theorem cpuPulse_boundary {s : State} (h : s.Running) (hc : s.cycles = 0) :
    cpuPulse s = endPulse (boundary s.irq.level (s.setIrq s.irq.next)) := by
  unfold cpuPulse
  rw [h.2, h.1, if_pos rfl, if_pos hc]

/-- A step at a boundary that fetches, whatever the bytes are read from: a fetch that faults ends it (R130), one that delivers is executed
(R121). -/
theorem step_atFetch {s : State} (h : (leadingPulses s).AtFetch) :
    step s = match fetchInstr { leadingPulses s with irq := (leadingPulses s).irq.next } with
      | .ok i t => afterExec (exec i t)
      | .stop t => if t.fault.isSome then .next t else afterExec (.next t) := by
  obtain ⟨hr, hc, hn, hq⟩ := h
  show advance s = _
  unfold advance
  rw [cpuPulse_boundary hr hc, boundary_fetch (s := (leadingPulses s).setIrq (leadingPulses s).irq.next) hn hq]
  change (match endPulse (match fetchInstr { leadingPulses s with irq := (leadingPulses s).irq.next } with
      | .ok i t => exec i t
      | .stop t => .next t) with
    | .next t => Host.Outcome.next (trailingPulses t)
    | .fault f => .fault f
    | .refused q => .refused q) = _
  cases fetchInstr { leadingPulses s with irq := (leadingPulses s).irq.next } with
  | ok i t =>
    dsimp only
    cases exec i t <;> rfl
  | stop t =>
    dsimp only [endPulse]
    split
    · rename_i hf
      obtain ⟨f, hf⟩ := Option.isSome_iff_exists.mp hf
      unfold trailingPulses
      split
      · rfl
      · exact congrArg _ (ppuPulses_of_fault 3 hf)
    · rename_i hf
      simp only [afterExec, if_neg hf]
      rfl

/-- A pulse of a running machine between boundaries. -/
theorem cpuPulse_executing {s : State} (h : s.Running) (hc : s.cycles ≠ 0) :
    cpuPulse s = .next (s.setCycles (s.cycles - 1)) := by
  unfold cpuPulse
  rw [h.2, h.1, if_pos rfl, if_neg hc]

/-- A step of a running machine between boundaries: three PPU pulses, and the counter goes down by one, in either order. -/
theorem step_executing {s : State} (h : s.Running) (hc : s.cycles ≠ 0) :
    step s = .next { s with cycles := s.cycles - 1, ppu := (ppuPulses 3 s).ppu } := by
  rw [ppuPulses_of_none 3 h.2]
  show advance s = _
  unfold advance leadingPulses trailingPulses
  cases hp : s.params.pulseOrder
  · dsimp only
    rw [ppuPulses_of_none 3 h.2]
    generalize Ppu.tick^[3] s.ppu = u
    rw [cpuPulse_executing (s := s.setPpu u) h hc]
    dsimp only [State.setCycles, State.setPpu]
    rw [hp]
  · dsimp only
    rw [cpuPulse_executing h hc]
    dsimp only [State.setCycles]
    rw [hp]
    dsimp only
    rw [ppuPulses_of_none 3 (s := { s with cycles := s.cycles - 1 }) h.2]
    generalize Ppu.tick^[3] s.ppu = u
    rfl

/-- A run whose first step answers a next state. -/
theorem run_succ {s t : State} (h : step s = .next t) (n : Nat) :
    Sys2Proof.core.run (n + 1) s = Sys2Proof.core.run n t := by
  have h' : Sys2Proof.core.step s = .next t := h
  refine (Host.Core.run.eq_2 Sys2Proof.core s n).trans ?_
  rw [h']

namespace Kept

variable {P : State → Prop}

theorem fetchByte (k : Kept P) {s : State} (h : P s) : (Machine.fetchByte s).After P :=
  (k.memRead _ h).andThen fun _ _ ht => k.setPc _ _ ht

theorem fetchOperands (k : Kept P) (row : Row) {s : State} (h : P s) : (Machine.fetchOperands row s).After P := by
  unfold Machine.fetchOperands
  split
  · exact h
  · exact (k.memRead _ (k.setPc _ _ h)).andThen fun _ _ ht => ht
  all_goals first
    | exact (k.fetchByte h).andThen fun _ _ ht => ht
    | exact (k.fetchByte h).andThen fun _ _ ht => (k.fetchByte ht).andThen fun _ _ hu => hu

/-- Fetching an instruction keeps `P`, if setting the counter to a base count does. -/
theorem fetchInstr (k : Kept P) (hc : ∀ (s : State) (o : Byte), P s → P (s.setCycles (opcodeRow o).base)) {s : State} (h : P s) :
    (Machine.fetchInstr s).After P :=
  (k.fetchByte h).andThen fun o t ht => k.fetchOperands _ (hc t o ht)

theorem interruptEntry (k : Kept P) (hc : ∀ s n, P s → P (s.setCycles n)) (kind : InterruptKind) {s : State} (h : P s) :
    (Machine.interruptEntry kind s).After P := by
  refine (k.takeInterrupt _ _ _ h ?_).andThen fun _ t ht => hc t _ ht
  right
  simp [storedByEntry, getFlag_putFlag]

/-- A boundary keeps a property that does not read the counter or NMI-pending, and answers a next state. -/
theorem boundary (k : Kept P) (hc : ∀ s n, P s → P (s.setCycles n)) (hn : ∀ s, P s → P (s.setNmiPending false)) (line : Bool)
    {s : State} (h : P s) : ∃ t, Machine.boundary line s = .next t ∧ P t := by
  unfold Machine.boundary
  split
  · exact (k.interruptEntry hc .nmi (hn s h)).finish
  · split
    · exact (k.interruptEntry hc .irq h).finish
    · have hf := k.fetchInstr (fun s o => hc s _) h
      cases hr : Machine.fetchInstr s with
      | ok i t =>
        rw [hr] at hf
        exact k.exec_next hc i hf
      | stop t =>
        rw [hr] at hf
        exact ⟨t, rfl, hf⟩

/-- A CPU pulse that answers a next state keeps such a property, if sampling the IRQ line keeps it. -/
theorem cpuPulse (k : Kept P) (hc : ∀ s n, P s → P (s.setCycles n)) (hn : ∀ s, P s → P (s.setNmiPending false))
    (hi : ∀ s, P s → P (s.setIrq s.irq.next)) {s t : State} (h : P s) (hp : Machine.cpuPulse s = .next t) : P t := by
  unfold Machine.cpuPulse at hp
  split at hp
  · cases hp
  · split at hp
    · split at hp
      · obtain ⟨u, hu, hP⟩ := k.boundary hc hn s.irq.level (hi s h)
        rw [hu] at hp
        cases hp
        split
        · exact hP
        · exact hc _ _ hP
      · cases hp
        exact hc _ _ h
    · cases hp

/-- A step that answers a next state keeps such a property, if a PPU pulse keeps it. -/
theorem step (k : Kept P) (hc : ∀ s n, P s → P (s.setCycles n)) (hn : ∀ s, P s → P (s.setNmiPending false))
    (hi : ∀ s, P s → P (s.setIrq s.irq.next)) (ht : ∀ s : State, P s → P (s.setPpu s.ppu.tick)) {s t : State} (h : P s)
    (hs : Machine.step s = .next t) : P t := by
  have hl : P (leadingPulses s) := by
    unfold leadingPulses
    split
    · exact ppuPulses_kept ht 3 h
    · exact h
  unfold Machine.step advance at hs
  cases hp : Machine.cpuPulse (leadingPulses s) with
  | next u =>
    rw [hp] at hs
    cases hs
    have hu := k.cpuPulse hc hn hi hl hp
    unfold trailingPulses
    split
    · exact hu
    · exact ppuPulses_kept ht 3 hu
  | fault f => rw [hp] at hs; cases hs
  | refused q => rw [hp] at hs; cases hs

end Kept

end Sys2Proof.Machine
end

