-- ==== Sys2Proof/Tests/Slice0.lean ====
section
/-! SUPPORT. The model's own tests: the well-formedness checks, the decoding of every constructor from words written out from the
spec's encoding (spec/30_encoding.md R101, R102), the worked vectors of spec/95_test_vectors.md one step each, and for every
statement of Certificates/Slice0/Obligations.lean with hypotheses a concrete state and operands that meet them. -/

namespace Sys2Proof.Tests

open Sys2Proof.Machine

/-! ### Well-formedness -/

theorem test_wf_refuses_illegal_of_documented_opcodes :
    (Instr.illegal 0xEA#8).wf = false ∧ (Instr.illegal 0x00#8).wf = false ∧ (Instr.illegal 0xA9#8).wf = false ∧
    (Instr.illegal 0xFE#8).wf = false := by decide

theorem test_wf_admits_illegal_of_undocumented_opcodes :
    (Instr.illegal 0x02#8).wf = true ∧ (Instr.illegal 0xFF#8).wf = true ∧ (Instr.illegal 0x80#8).wf = true := by decide

theorem test_wf_admits_every_operand : (Instr.ldaAbx 0xFFFF#16).wf = true ∧ (Instr.bne 0x80#8).wf = true := by decide

/-! ### Decoding: every row of the opcode table. The operand bytes are 0xA5 and then 0x3C. -/

theorem test_decode_loadstore_1 : ∀ row ∈ [
      ([0xA9#8, 0xA5#8], Instr.ldaImm 0xA5#8), ([0xA5#8, 0xA5#8], .ldaZp 0xA5#8), ([0xB5#8, 0xA5#8], .ldaZpx 0xA5#8),
      ([0xAD#8, 0xA5#8, 0x3C#8], .ldaAbs 0x3CA5#16), ([0xBD#8, 0xA5#8, 0x3C#8], .ldaAbx 0x3CA5#16),
      ([0xB9#8, 0xA5#8, 0x3C#8], .ldaAby 0x3CA5#16), ([0xA1#8, 0xA5#8], .ldaIzx 0xA5#8),
      ([0xB1#8, 0xA5#8], .ldaIzy 0xA5#8), ([0xA2#8, 0xA5#8], .ldxImm 0xA5#8), ([0xA6#8, 0xA5#8], .ldxZp 0xA5#8),
      ([0xB6#8, 0xA5#8], .ldxZpy 0xA5#8), ([0xAE#8, 0xA5#8, 0x3C#8], .ldxAbs 0x3CA5#16),
      ([0xBE#8, 0xA5#8, 0x3C#8], .ldxAby 0x3CA5#16), ([0xA0#8, 0xA5#8], .ldyImm 0xA5#8)],
    decode (row.1 ++ [0x77#8]) = .ok (row.2, [0x77#8]) := by decide

theorem test_decode_loadstore_2 : ∀ row ∈ [
      ([0xA4#8, 0xA5#8], Instr.ldyZp 0xA5#8), ([0xB4#8, 0xA5#8], .ldyZpx 0xA5#8),
      ([0xAC#8, 0xA5#8, 0x3C#8], .ldyAbs 0x3CA5#16), ([0xBC#8, 0xA5#8, 0x3C#8], .ldyAbx 0x3CA5#16),
      ([0x85#8, 0xA5#8], .staZp 0xA5#8), ([0x95#8, 0xA5#8], .staZpx 0xA5#8),
      ([0x8D#8, 0xA5#8, 0x3C#8], .staAbs 0x3CA5#16), ([0x9D#8, 0xA5#8, 0x3C#8], .staAbx 0x3CA5#16),
      ([0x99#8, 0xA5#8, 0x3C#8], .staAby 0x3CA5#16), ([0x81#8, 0xA5#8], .staIzx 0xA5#8),
      ([0x91#8, 0xA5#8], .staIzy 0xA5#8), ([0x86#8, 0xA5#8], .stxZp 0xA5#8), ([0x96#8, 0xA5#8], .stxZpy 0xA5#8),
      ([0x8E#8, 0xA5#8, 0x3C#8], .stxAbs 0x3CA5#16)],
    decode (row.1 ++ [0x77#8]) = .ok (row.2, [0x77#8]) := by decide

theorem test_decode_loadstore_3 : ∀ row ∈ [
      ([0x84#8, 0xA5#8], Instr.styZp 0xA5#8), ([0x94#8, 0xA5#8], .styZpx 0xA5#8),
      ([0x8C#8, 0xA5#8, 0x3C#8], .styAbs 0x3CA5#16), ([0xAA#8], .tax), ([0xA8#8], .tay), ([0xBA#8], .tsx),
      ([0x8A#8], .txa), ([0x9A#8], .txs), ([0x98#8], .tya)],
    decode (row.1 ++ [0x77#8]) = .ok (row.2, [0x77#8]) := by decide

theorem test_decode_alu_1 : ∀ row ∈ [
      ([0x69#8, 0xA5#8], Instr.adcImm 0xA5#8), ([0x65#8, 0xA5#8], .adcZp 0xA5#8), ([0x75#8, 0xA5#8], .adcZpx 0xA5#8),
      ([0x6D#8, 0xA5#8, 0x3C#8], .adcAbs 0x3CA5#16), ([0x7D#8, 0xA5#8, 0x3C#8], .adcAbx 0x3CA5#16),
      ([0x79#8, 0xA5#8, 0x3C#8], .adcAby 0x3CA5#16), ([0x61#8, 0xA5#8], .adcIzx 0xA5#8),
      ([0x71#8, 0xA5#8], .adcIzy 0xA5#8), ([0xE9#8, 0xA5#8], .sbcImm 0xA5#8), ([0xE5#8, 0xA5#8], .sbcZp 0xA5#8),
      ([0xF5#8, 0xA5#8], .sbcZpx 0xA5#8), ([0xED#8, 0xA5#8, 0x3C#8], .sbcAbs 0x3CA5#16),
      ([0xFD#8, 0xA5#8, 0x3C#8], .sbcAbx 0x3CA5#16), ([0xF9#8, 0xA5#8, 0x3C#8], .sbcAby 0x3CA5#16)],
    decode (row.1 ++ [0x77#8]) = .ok (row.2, [0x77#8]) := by decide

theorem test_decode_alu_2 : ∀ row ∈ [
      ([0xE1#8, 0xA5#8], Instr.sbcIzx 0xA5#8), ([0xF1#8, 0xA5#8], .sbcIzy 0xA5#8),
      ([0x29#8, 0xA5#8], .andImm 0xA5#8), ([0x25#8, 0xA5#8], .andZp 0xA5#8), ([0x35#8, 0xA5#8], .andZpx 0xA5#8),
      ([0x2D#8, 0xA5#8, 0x3C#8], .andAbs 0x3CA5#16), ([0x3D#8, 0xA5#8, 0x3C#8], .andAbx 0x3CA5#16),
      ([0x39#8, 0xA5#8, 0x3C#8], .andAby 0x3CA5#16), ([0x21#8, 0xA5#8], .andIzx 0xA5#8),
      ([0x31#8, 0xA5#8], .andIzy 0xA5#8), ([0x09#8, 0xA5#8], .oraImm 0xA5#8), ([0x05#8, 0xA5#8], .oraZp 0xA5#8),
      ([0x15#8, 0xA5#8], .oraZpx 0xA5#8), ([0x0D#8, 0xA5#8, 0x3C#8], .oraAbs 0x3CA5#16)],
    decode (row.1 ++ [0x77#8]) = .ok (row.2, [0x77#8]) := by decide

theorem test_decode_alu_3 : ∀ row ∈ [
      ([0x1D#8, 0xA5#8, 0x3C#8], Instr.oraAbx 0x3CA5#16), ([0x19#8, 0xA5#8, 0x3C#8], .oraAby 0x3CA5#16),
      ([0x01#8, 0xA5#8], .oraIzx 0xA5#8), ([0x11#8, 0xA5#8], .oraIzy 0xA5#8), ([0x49#8, 0xA5#8], .eorImm 0xA5#8),
      ([0x45#8, 0xA5#8], .eorZp 0xA5#8), ([0x55#8, 0xA5#8], .eorZpx 0xA5#8),
      ([0x4D#8, 0xA5#8, 0x3C#8], .eorAbs 0x3CA5#16), ([0x5D#8, 0xA5#8, 0x3C#8], .eorAbx 0x3CA5#16),
      ([0x59#8, 0xA5#8, 0x3C#8], .eorAby 0x3CA5#16), ([0x41#8, 0xA5#8], .eorIzx 0xA5#8),
      ([0x51#8, 0xA5#8], .eorIzy 0xA5#8), ([0x24#8, 0xA5#8], .bitZp 0xA5#8),
      ([0x2C#8, 0xA5#8, 0x3C#8], .bitAbs 0x3CA5#16)],
    decode (row.1 ++ [0x77#8]) = .ok (row.2, [0x77#8]) := by decide

theorem test_decode_alu_4 : ∀ row ∈ [
      ([0xC9#8, 0xA5#8], Instr.cmpImm 0xA5#8), ([0xC5#8, 0xA5#8], .cmpZp 0xA5#8), ([0xD5#8, 0xA5#8], .cmpZpx 0xA5#8),
      ([0xCD#8, 0xA5#8, 0x3C#8], .cmpAbs 0x3CA5#16), ([0xDD#8, 0xA5#8, 0x3C#8], .cmpAbx 0x3CA5#16),
      ([0xD9#8, 0xA5#8, 0x3C#8], .cmpAby 0x3CA5#16), ([0xC1#8, 0xA5#8], .cmpIzx 0xA5#8),
      ([0xD1#8, 0xA5#8], .cmpIzy 0xA5#8), ([0xE0#8, 0xA5#8], .cpxImm 0xA5#8), ([0xE4#8, 0xA5#8], .cpxZp 0xA5#8),
      ([0xEC#8, 0xA5#8, 0x3C#8], .cpxAbs 0x3CA5#16), ([0xC0#8, 0xA5#8], .cpyImm 0xA5#8),
      ([0xC4#8, 0xA5#8], .cpyZp 0xA5#8), ([0xCC#8, 0xA5#8, 0x3C#8], .cpyAbs 0x3CA5#16)],
    decode (row.1 ++ [0x77#8]) = .ok (row.2, [0x77#8]) := by decide

theorem test_decode_alu_5 : ∀ row ∈ [
      ([0xE6#8, 0xA5#8], Instr.incZp 0xA5#8), ([0xF6#8, 0xA5#8], .incZpx 0xA5#8),
      ([0xEE#8, 0xA5#8, 0x3C#8], .incAbs 0x3CA5#16), ([0xFE#8, 0xA5#8, 0x3C#8], .incAbx 0x3CA5#16),
      ([0xC6#8, 0xA5#8], .decZp 0xA5#8), ([0xD6#8, 0xA5#8], .decZpx 0xA5#8),
      ([0xCE#8, 0xA5#8, 0x3C#8], .decAbs 0x3CA5#16), ([0xDE#8, 0xA5#8, 0x3C#8], .decAbx 0x3CA5#16), ([0xE8#8], .inx),
      ([0xC8#8], .iny), ([0xCA#8], .dex), ([0x88#8], .dey)],
    decode (row.1 ++ [0x77#8]) = .ok (row.2, [0x77#8]) := by decide

theorem test_decode_shift_1 : ∀ row ∈ [
      ([0x0A#8], Instr.aslAcc), ([0x06#8, 0xA5#8], .aslZp 0xA5#8), ([0x16#8, 0xA5#8], .aslZpx 0xA5#8),
      ([0x0E#8, 0xA5#8, 0x3C#8], .aslAbs 0x3CA5#16), ([0x1E#8, 0xA5#8, 0x3C#8], .aslAbx 0x3CA5#16),
      ([0x4A#8], .lsrAcc), ([0x46#8, 0xA5#8], .lsrZp 0xA5#8), ([0x56#8, 0xA5#8], .lsrZpx 0xA5#8),
      ([0x4E#8, 0xA5#8, 0x3C#8], .lsrAbs 0x3CA5#16), ([0x5E#8, 0xA5#8, 0x3C#8], .lsrAbx 0x3CA5#16),
      ([0x2A#8], .rolAcc), ([0x26#8, 0xA5#8], .rolZp 0xA5#8), ([0x36#8, 0xA5#8], .rolZpx 0xA5#8),
      ([0x2E#8, 0xA5#8, 0x3C#8], .rolAbs 0x3CA5#16)],
    decode (row.1 ++ [0x77#8]) = .ok (row.2, [0x77#8]) := by decide

theorem test_decode_shift_2 : ∀ row ∈ [
      ([0x3E#8, 0xA5#8, 0x3C#8], Instr.rolAbx 0x3CA5#16), ([0x6A#8], .rorAcc), ([0x66#8, 0xA5#8], .rorZp 0xA5#8),
      ([0x76#8, 0xA5#8], .rorZpx 0xA5#8), ([0x6E#8, 0xA5#8, 0x3C#8], .rorAbs 0x3CA5#16),
      ([0x7E#8, 0xA5#8, 0x3C#8], .rorAbx 0x3CA5#16)],
    decode (row.1 ++ [0x77#8]) = .ok (row.2, [0x77#8]) := by decide

theorem test_decode_branch_1 : ∀ row ∈ [
      ([0x90#8, 0xA5#8], Instr.bcc 0xA5#8), ([0xB0#8, 0xA5#8], .bcs 0xA5#8), ([0xF0#8, 0xA5#8], .beq 0xA5#8),
      ([0x30#8, 0xA5#8], .bmi 0xA5#8), ([0xD0#8, 0xA5#8], .bne 0xA5#8), ([0x10#8, 0xA5#8], .bpl 0xA5#8),
      ([0x50#8, 0xA5#8], .bvc 0xA5#8), ([0x70#8, 0xA5#8], .bvs 0xA5#8),
      ([0x4C#8, 0xA5#8, 0x3C#8], .jmpAbs 0x3CA5#16), ([0x6C#8, 0xA5#8, 0x3C#8], .jmpInd 0x3CA5#16),
      ([0x20#8, 0xA5#8, 0x3C#8], .jsr 0x3CA5#16), ([0x60#8], .rts)],
    decode (row.1 ++ [0x77#8]) = .ok (row.2, [0x77#8]) := by decide

theorem test_decode_system_1 : ∀ row ∈ [
      ([0x48#8], Instr.pha), ([0x08#8], .php), ([0x68#8], .pla), ([0x28#8], .plp), ([0x18#8], .clc),
      ([0xD8#8], .cld), ([0x58#8], .cli), ([0xB8#8], .clv), ([0x38#8], .sec), ([0xF8#8], .sed), ([0x78#8], .sei),
      ([0xEA#8], .nop), ([0x00#8], .brk), ([0x40#8], .rti)],
    decode (row.1 ++ [0x77#8]) = .ok (row.2, [0x77#8]) := by decide

/-- One opcode of each line of the list of R104, with a byte after it that stays. -/
theorem test_decode_illegal : ∀ o ∈ [0x02#8, 0x1F#8, 0x22#8, 0x3C#8, 0x44#8, 0x5A#8, 0x6B#8, 0x77#8, 0x89#8, 0x9C#8, 0xAB#8, 0xB2#8, 0xC7#8,
    0xDC#8, 0xEB#8, 0xFF#8], decode [o, 0x34#8] = .ok (.illegal o, [0x34#8]) := by decide

/-- 105 opcodes, in strictly rising order. -/
theorem test_illegal_count : illegalOpcodes.length = 105 ∧
    ((illegalOpcodes.zip illegalOpcodes.tail).all fun p => p.1.toNat < p.2.toNat) = true := by
  set_option maxRecDepth 8000 in decide

theorem test_decode_rejects : decode [] = .error .noOpcode ∧ decode [0xA9#8] = .error (.missingOperand 0xA9#8) ∧
    decode [0x4C#8, 0x00#8] = .error (.missingOperand 0x4C#8) := by decide

theorem test_table_word : decodeTableWord 24 0x12344C = some (.jmpAbs 0x1234#16) ∧ decodeTableWord 16 0x80A9 = some (.ldaImm 0x80#8) ∧
    decodeTableWord 8 0xEA = some .nop ∧ decodeTableWord 8 0x02 = some (.illegal 0x02#8) ∧
    decodeTableWord 8 0xA9 = some (.ldaImm 0x00#8) := by decide

/-! The base cycles of all 256 entries, in the order of the map of R102. -/

theorem test_base_cycles_00 : (List.range 64).map (fun k => (opcodeRow (BitVec.ofNat 8 (0 + k))).base) =
    [7, 6, 2, 2, 2, 3, 5, 2, 3, 2, 2, 2, 2, 4, 6, 2,
     2, 5, 2, 2, 2, 4, 6, 2, 2, 4, 2, 2, 2, 4, 7, 2,
     6, 6, 2, 2, 3, 3, 5, 2, 4, 2, 2, 2, 4, 4, 6, 2,
     2, 5, 2, 2, 2, 4, 6, 2, 2, 4, 2, 2, 2, 4, 7, 2] := by
  decide

theorem test_base_cycles_40 : (List.range 64).map (fun k => (opcodeRow (BitVec.ofNat 8 (64 + k))).base) =
    [6, 6, 2, 2, 2, 3, 5, 2, 3, 2, 2, 2, 3, 4, 6, 2,
     2, 5, 2, 2, 2, 4, 6, 2, 2, 4, 2, 2, 2, 4, 7, 2,
     6, 6, 2, 2, 2, 3, 5, 2, 4, 2, 2, 2, 5, 4, 6, 2,
     2, 5, 2, 2, 2, 4, 6, 2, 2, 4, 2, 2, 2, 4, 7, 2] := by
  decide

theorem test_base_cycles_80 : (List.range 64).map (fun k => (opcodeRow (BitVec.ofNat 8 (128 + k))).base) =
    [2, 6, 2, 2, 3, 3, 3, 2, 2, 2, 2, 2, 4, 4, 4, 2,
     2, 6, 2, 2, 4, 4, 4, 2, 2, 5, 2, 2, 2, 5, 2, 2,
     2, 6, 2, 2, 3, 3, 3, 2, 2, 2, 2, 2, 4, 4, 4, 2,
     2, 5, 2, 2, 4, 4, 4, 2, 2, 4, 2, 2, 4, 4, 4, 2] := by
  decide

theorem test_base_cycles_C0 : (List.range 64).map (fun k => (opcodeRow (BitVec.ofNat 8 (192 + k))).base) =
    [2, 6, 2, 2, 3, 3, 5, 2, 2, 2, 2, 2, 4, 4, 6, 2,
     2, 5, 2, 2, 2, 4, 6, 2, 2, 4, 2, 2, 2, 4, 7, 2,
     2, 6, 2, 2, 3, 3, 5, 2, 2, 2, 2, 2, 4, 4, 6, 2,
     2, 5, 2, 2, 2, 4, 6, 2, 2, 4, 2, 2, 2, 4, 7, 2] := by
  decide

/-! ### Worked vectors of spec/95_test_vectors.md, one step each -/

/-- The default start state of spec/95_test_vectors.md, with code at 0x8000 and the IRQ/BRK vector at 0x9000. -/
def machine (code : List Byte) : State :=
  { State.reset with
    cycles := 0, pc := 0x8000#16
    cart := { Cartridge.blank with mirroring := .vertical, prg := Memory.ofBytes code ++ [(0x3FFF, 0x90#8)] } }

/-- What a step leaves, read by `f`. The counter it leaves is the instruction's cost minus the pulse's decrement. -/
def after {α : Type} (s : State) (f : State → α) : Option α :=
  match step s with
  | .next t => some (f t)
  | .fault _ => none
  | .refused _ => none

/-- Vector A1. -/
theorem test_lda_imm :
    after (machine [0xA9#8, 0x80#8])
      (fun t => (t.a, t.p, t.pc, t.cycles)) = some (0x80#8, 0xA0#8, 0x8002#16, 1) := by decide

/-- Vector A3. -/
theorem test_lda_zpx_wraps :
    after { machine [0xB5#8, 0xF8#8] with x := 0x10#8, ram := [(0x8, 0x77#8), (0x108, 0x11#8)] }
      (fun t => (t.a, t.pc, t.cycles)) = some (0x77#8, 0x8002#16, 3) := by decide

/-- Vector A4. -/
theorem test_ldx_zpy_wraps :
    after { machine [0xB6#8, 0xFF#8] with y := 0x02#8, ram := [(0x1, 0x99#8)] }
      (fun t => (t.x, t.p, t.pc, t.cycles)) = some (0x99#8, 0xA0#8, 0x8002#16, 3) := by decide

/-- Vector A10. -/
theorem test_jmp_indirect_page_wrap :
    after { machine [0x6C#8, 0xFF#8, 0x02#8] with ram := [(0x200, 0x12#8), (0x2FF, 0x34#8), (0x300, 0x56#8)] }
      (fun t => (t.pc, t.cycles)) = some (0x1234#16, 4) := by decide

/-- Vector A12. -/
theorem test_lda_izx_pointer_wraps :
    after { machine [0xA1#8, 0xFE#8] with x := 0x01#8, ram := [(0x0, 0x03#8), (0x300, 0xAB#8)] }
      (fun t => (t.a, t.p, t.cycles)) = some (0xAB#8, 0xA0#8, 5) := by decide

/-- Vector A17. -/
theorem test_sta_izy :
    after { machine [0x91#8, 0x20#8] with y := 0x20#8, a := 0x5C#8, ram := [(0x20, 0xF0#8), (0x21, 0x02#8)] }
      (fun t => (t.ram, t.pc, t.cycles)) = some ([(0x20, 0xF0#8), (0x21, 0x02#8), (0x310, 0x5C#8)], 0x8002#16, 5) := by decide

/-- Vector A8. -/
theorem test_sta_aby_fixed_cost :
    after { machine [0x99#8, 0xF0#8, 0x02#8] with y := 0x20#8, a := 0x33#8 }
      (fun t => (t.ram, t.pc, t.cycles)) = some ([(0x310, 0x33#8)], 0x8003#16, 4) := by decide

/-- Vector L3. -/
theorem test_ldy_abx_crosses :
    after { machine [0xBC#8, 0xFF#8, 0x00#8] with x := 0x01#8, ram := [(0x100, 0x7F#8)] }
      (fun t => (t.y, t.p, t.cycles)) = some (0x7F#8, 0x20#8, 4) := by decide

/-- Vector L2. -/
theorem test_ldx_imm :
    after (machine [0xA2#8, 0xFF#8])
      (fun t => (t.x, t.p, t.cycles)) = some (0xFF#8, 0xA0#8, 1) := by decide

/-- Vector L5. -/
theorem test_stx_zpy :
    after { machine [0x96#8, 0xFF#8] with x := 0x9A#8, y := 0x03#8 }
      (fun t => (t.ram, t.cycles)) = some ([(0x2, 0x9A#8)], 3) := by decide

/-- Vector L6. -/
theorem test_sty_abs :
    after { machine [0x8C#8, 0x00#8, 0x01#8] with y := 0x00#8, p := 0xA1#8, ram := [(0x100, 0x07#8)] }
      (fun t => (t.ram, t.p, t.cycles)) = some ([], 0xA1#8, 3) := by decide

/-- Vector L7. -/
theorem test_tax :
    after { machine [0xAA#8] with a := 0x80#8 }
      (fun t => (t.x, t.p, t.cycles)) = some (0x80#8, 0xA0#8, 1) := by decide

/-- Vector L8. -/
theorem test_tsx :
    after { machine [0xBA#8] with sp := 0x00#8 }
      (fun t => (t.x, t.p, t.cycles)) = some (0x00#8, 0x22#8, 1) := by decide

/-- Vector L9. -/
theorem test_txs_writes_no_flag :
    after { machine [0x9A#8] with x := 0x00#8, p := 0x20#8 }
      (fun t => (t.sp, t.p, t.cycles)) = some (0x00#8, 0x20#8, 1) := by decide

/-- Vector L10. -/
theorem test_tya :
    after { machine [0x98#8] with y := 0x00#8, a := 0x12#8 }
      (fun t => (t.a, t.p, t.cycles)) = some (0x00#8, 0x22#8, 1) := by decide

/-- Vector L11. -/
theorem test_tay :
    after { machine [0xA8#8] with a := 0xFF#8 }
      (fun t => (t.y, t.p, t.cycles)) = some (0xFF#8, 0xA0#8, 1) := by decide

/-- Vector L12. -/
theorem test_txa :
    after { machine [0x8A#8] with x := 0x7F#8, p := 0xA2#8 }
      (fun t => (t.a, t.p, t.cycles)) = some (0x7F#8, 0x20#8, 1) := by decide

/-- Vector U2. -/
theorem test_adc_overflow :
    after { machine [0x69#8, 0x50#8] with a := 0x50#8 }
      (fun t => (t.a, t.p, t.cycles)) = some (0xA0#8, 0xE0#8, 1) := by decide

/-- Vector U6. -/
theorem test_adc_carry_zero :
    after { machine [0x69#8, 0x01#8] with a := 0xFF#8 }
      (fun t => (t.a, t.p, t.cycles)) = some (0x00#8, 0x23#8, 1) := by decide

/-- Vector S4. -/
theorem test_sbc_overflow :
    after { machine [0xE9#8, 0x70#8] with a := 0xD0#8, p := 0x21#8 }
      (fun t => (t.a, t.p, t.cycles)) = some (0x60#8, 0x61#8, 1) := by decide

/-- Vector S6. -/
theorem test_sbc_borrow :
    after { machine [0xE9#8, 0x03#8] with a := 0x05#8 }
      (fun t => (t.a, t.p, t.cycles)) = some (0x01#8, 0x21#8, 1) := by decide

/-- Vector G1. -/
theorem test_and :
    after { machine [0x29#8, 0x0F#8] with a := 0xF0#8 }
      (fun t => (t.a, t.p, t.cycles)) = some (0x00#8, 0x22#8, 1) := by decide

/-- Vector G2. -/
theorem test_ora :
    after { machine [0x09#8, 0x80#8] with a := 0x01#8 }
      (fun t => (t.a, t.p, t.cycles)) = some (0x81#8, 0xA0#8, 1) := by decide

/-- Vector G3. -/
theorem test_eor :
    after { machine [0x49#8, 0xFF#8] with a := 0xFF#8 }
      (fun t => (t.a, t.p, t.cycles)) = some (0x00#8, 0x22#8, 1) := by decide

/-- Vector G4. -/
theorem test_bit :
    after { machine [0x24#8, 0x10#8] with a := 0x01#8, ram := [(0x10, 0xC0#8)] }
      (fun t => (t.a, t.p, t.cycles)) = some (0x01#8, 0xE2#8, 2) := by decide

/-- Vector G9. -/
theorem test_cmp_less :
    after { machine [0xC9#8, 0xFF#8] with a := 0x01#8 }
      (fun t => (t.a, t.p, t.cycles)) = some (0x01#8, 0x20#8, 1) := by decide

/-- Vector G12. -/
theorem test_cmp_crosses :
    after { machine [0xDD#8, 0xF0#8, 0x02#8] with a := 0x05#8, x := 0x20#8, ram := [(0x310, 0x05#8)] }
      (fun t => (t.p, t.cycles)) = some (0x23#8, 4) := by decide

/-- Vector G10. -/
theorem test_cpx :
    after { machine [0xE0#8, 0x00#8] with x := 0x80#8 }
      (fun t => (t.p, t.cycles)) = some (0xA1#8, 1) := by decide

/-- Vector G11. -/
theorem test_cpy :
    after { machine [0xC0#8, 0x81#8] with y := 0x80#8 }
      (fun t => (t.p, t.cycles)) = some (0xA0#8, 1) := by decide

/-- Vector G13. -/
theorem test_inc_wraps :
    after { machine [0xE6#8, 0x10#8] with ram := [(0x10, 0xFF#8)] }
      (fun t => (t.ram, t.p, t.cycles)) = some ([], 0x22#8, 4) := by decide

/-- Vector G14. -/
theorem test_inc_abx_fixed_cost :
    after { machine [0xFE#8, 0xF0#8, 0x02#8] with x := 0x20#8, ram := [(0x310, 0x7F#8)] }
      (fun t => (t.ram, t.p, t.cycles)) = some ([(0x310, 0x80#8)], 0xA0#8, 6) := by decide

/-- Vector G15. -/
theorem test_dec_wraps :
    after (machine [0xC6#8, 0x10#8])
      (fun t => (t.ram, t.p, t.cycles)) = some ([(0x10, 0xFF#8)], 0xA0#8, 4) := by decide

/-- Vector G16. -/
theorem test_inx :
    after { machine [0xE8#8] with x := 0xFF#8 }
      (fun t => (t.x, t.p, t.cycles)) = some (0x00#8, 0x22#8, 1) := by decide

/-- Vector G17. -/
theorem test_dex :
    after { machine [0xCA#8] with x := 0x00#8 }
      (fun t => (t.x, t.p, t.cycles)) = some (0xFF#8, 0xA0#8, 1) := by decide

/-- Vector G18. -/
theorem test_iny :
    after { machine [0xC8#8] with y := 0x7F#8 }
      (fun t => (t.y, t.p, t.cycles)) = some (0x80#8, 0xA0#8, 1) := by decide

/-- Vector G19. -/
theorem test_dey :
    after { machine [0x88#8] with y := 0x01#8 }
      (fun t => (t.y, t.p, t.cycles)) = some (0x00#8, 0x22#8, 1) := by decide

/-- Vector H1. -/
theorem test_asl_acc :
    after { machine [0x0A#8] with a := 0x81#8 }
      (fun t => (t.a, t.p, t.cycles)) = some (0x02#8, 0x21#8, 1) := by decide

/-- Vector H4. -/
theorem test_lsr_abx :
    after { machine [0x5E#8, 0xF0#8, 0x02#8] with x := 0x20#8, ram := [(0x310, 0x80#8)] }
      (fun t => (t.ram, t.p, t.cycles)) = some ([(0x310, 0x40#8)], 0x20#8, 6) := by decide

/-- Vector H6. -/
theorem test_rol_zp :
    after { machine [0x26#8, 0x10#8] with p := 0x21#8, ram := [(0x10, 0x40#8)] }
      (fun t => (t.ram, t.p, t.cycles)) = some ([(0x10, 0x81#8)], 0xA0#8, 4) := by decide

/-- Vector H7. -/
theorem test_ror_acc :
    after { machine [0x6A#8] with a := 0x01#8, p := 0x21#8 }
      (fun t => (t.a, t.p, t.cycles)) = some (0x80#8, 0xA1#8, 1) := by decide

/-- Vector B1. -/
theorem test_bne_taken :
    after (machine [0xD0#8, 0x05#8])
      (fun t => (t.pc, t.cycles)) = some (0x8007#16, 2) := by decide

/-- Vector B12. -/
theorem test_beq_not_taken :
    after (machine [0xF0#8, 0x02#8])
      (fun t => (t.pc, t.cycles)) = some (0x8002#16, 1) := by decide

/-- Vector S8 and R226. -/
theorem test_bpl_backwards :
    after (machine [0x10#8, 0xFE#8])
      (fun t => (t.pc, t.cycles)) = some (0x8000#16, 2) := by decide

/-- Vector B8. -/
theorem test_bvs_offset_zero :
    after { machine [0x70#8, 0x00#8] with p := 0x60#8 }
      (fun t => (t.pc, t.cycles)) = some (0x8002#16, 2) := by decide

/-- Vector B9. -/
theorem test_bvc_not_taken :
    after { machine [0x50#8, 0x10#8] with p := 0x60#8 }
      (fun t => (t.pc, t.cycles)) = some (0x8002#16, 1) := by decide

/-- Vector B11. -/
theorem test_bcc_not_taken :
    after { machine [0x90#8, 0x02#8] with p := 0x21#8 }
      (fun t => (t.pc, t.cycles)) = some (0x8002#16, 1) := by decide

/-- Vector J1. -/
theorem test_jmp :
    after (machine [0x4C#8, 0x34#8, 0x12#8])
      (fun t => (t.pc, t.cycles)) = some (0x1234#16, 2) := by decide

/-- Vector J4. -/
theorem test_jsr_wraps :
    after { machine [0x20#8, 0x00#8, 0x90#8] with sp := 0x00#8 }
      (fun t => (t.ram, t.sp, t.pc, t.cycles)) = some ([(0x100, 0x80#8), (0x1FF, 0x02#8)], 0xFE#8, 0x9000#16, 5) := by decide

/-- Vector J5. -/
theorem test_rts_wraps :
    after { machine [0x60#8] with ram := [(0x1FE, 0xFF#8), (0x1FF, 0xFF#8)] }
      (fun t => (t.pc, t.sp, t.cycles)) = some (0x0000#16, 0xFF#8, 5) := by decide

/-- Vector K8. -/
theorem test_pha_wraps :
    after { machine [0x48#8] with sp := 0x00#8, a := 0x11#8 }
      (fun t => (t.ram, t.sp, t.cycles)) = some ([(0x100, 0x11#8)], 0xFF#8, 2) := by decide

/-- Vector K2. -/
theorem test_php :
    after { machine [0x08#8] with p := 0x20#8 }
      (fun t => (t.ram, t.sp, t.p, t.cycles)) = some ([(0x1FD, 0x30#8)], 0xFC#8, 0x20#8, 2) := by decide

/-- Vector K7. -/
theorem test_pla_wraps :
    after { machine [0x68#8] with sp := 0xFF#8, ram := [(0x100, 0x44#8)] }
      (fun t => (t.a, t.sp, t.cycles)) = some (0x44#8, 0x00#8, 3) := by decide

/-- Vector K5. -/
theorem test_plp :
    after { machine [0x28#8] with sp := 0xFC#8, ram := [(0x1FD, 0xFF#8)] }
      (fun t => (t.p, t.sp, t.cycles)) = some (0xEF#8, 0xFD#8, 3) := by decide

/-- Vector K9. -/
theorem test_clc :
    after { machine [0x18#8] with p := 0xEF#8 }
      (fun t => (t.p, t.cycles)) = some (0xEE#8, 1) := by decide

/-- Vector K10. -/
theorem test_sed :
    after (machine [0xF8#8])
      (fun t => (t.p, t.cycles)) = some (0x28#8, 1) := by decide

/-- Vector K11. -/
theorem test_sei :
    after (machine [0x78#8])
      (fun t => (t.p, t.cycles)) = some (0x24#8, 1) := by decide

/-- Vector K12. -/
theorem test_clv :
    after { machine [0xB8#8] with p := 0x60#8 }
      (fun t => (t.p, t.cycles)) = some (0x20#8, 1) := by decide

/-- Vector K18. -/
theorem test_cld :
    after { machine [0xD8#8] with p := 0x28#8 }
      (fun t => (t.p, t.cycles)) = some (0x20#8, 1) := by decide

/-- Vector K19. -/
theorem test_cli :
    after { machine [0x58#8] with p := 0x24#8 }
      (fun t => (t.p, t.cycles)) = some (0x20#8, 1) := by decide

/-- Vector K20. -/
theorem test_sec :
    after (machine [0x38#8])
      (fun t => (t.p, t.cycles)) = some (0x21#8, 1) := by decide

/-- Vector K13. -/
theorem test_nop :
    after (machine [0xEA#8])
      (fun t => (t.pc, t.p, t.cycles)) = some (0x8001#16, 0x20#8, 1) := by decide

/-- Vector K14. -/
theorem test_brk :
    after (machine [0x00#8, 0xEA#8])
      (fun t => (t.ram, t.sp, t.p, t.pc, t.cycles)) = some ([(0x1FB, 0x30#8), (0x1FC, 0x02#8), (0x1FD, 0x80#8)], 0xFA#8, 0x24#8, 0x9000#16, 6) := by decide

/-- Vector K15. -/
theorem test_rti :
    after { machine [0x40#8] with sp := 0xFA#8, ram := [(0x1FB, 0xFF#8), (0x1FC, 0x02#8), (0x1FD, 0x80#8)] }
      (fun t => (t.p, t.pc, t.sp, t.cycles)) = some (0xEF#8, 0x8002#16, 0xFD#8, 5) := by decide

/-- Vector K16. -/
theorem test_illegal :
    after (machine [0x02#8])
      (fun t => (t.fault, t.pc, t.cycles)) = some (some (.illegalOpcode 0x02#8 0x8000#16), 0x8001#16, 2) := by decide

/-- Vector M3. -/
theorem test_unmapped_read :
    after { machine [0xAD#8, 0x00#8, 0x40#8] with a := 0x55#8 }
      (fun t => (t.a, t.p, t.diag, t.fault)) = some (0x00#8, 0x22#8, [.unmappedRead 0x4000#16], none) := by decide

/-- Vector M5. -/
theorem test_rom_write :
    after { machine [0x8D#8, 0x00#8, 0xC0#8] with a := 0x55#8 }
      (fun t => (t.fault, t.pc, t.cycles)) = some (some (.romWrite 0xC000#16), 0x8003#16, 4) := by decide

/-- Vector P1. -/
theorem test_status_read :
    after { machine [0xAD#8, 0x02#8, 0x20#8] with ppu := { State.reset.ppu with status := 0xE0#8, rbuf := 0x3F#8, w := true } }
      (fun t => (t.a, t.ppu.status, t.ppu.w)) = some (0xFF#8, 0x60#8, false) := by decide

/-- Vector P3. -/
theorem test_vram_address_high :
    after { machine [0x8D#8, 0x06#8, 0x20#8] with a := 0xFF#8, ppu := { State.reset.ppu with vaddr := 0x0012#16 } }
      (fun t => (t.ppu.vaddr, t.ppu.w)) = some (0x3F12#16, true) := by decide

/-- Vector P8. -/
theorem test_vram_write_increment :
    after { machine [0x8D#8, 0x07#8, 0x20#8] with a := 0x5A#8, ppu := { State.reset.ppu with vaddr := 0x2C05#16, ctrl := 0x04#8 } }
      (fun t => (t.ppu.vram, t.ppu.vaddr, t.ppu.rbuf)) = some ([(0x405, 0x5A#8)], 0x2C25#16, 0x00#8) := by decide

/-- Vector P9. -/
theorem test_palette_alias_write :
    after { machine [0x8D#8, 0x07#8, 0x20#8] with a := 0x5A#8, ppu := { State.reset.ppu with vaddr := 0x3F1C#16 } }
      (fun t => (t.ppu.palette, t.ppu.vaddr)) = some ([(0xC, 0x5A#8)], 0x3F1D#16) := by decide

/-- Vector P16. -/
theorem test_inc_through_the_buffer :
    after { machine [0xEE#8, 0x07#8, 0x20#8] with ppu := { State.reset.ppu with vaddr := 0x2000#16, rbuf := 0x41#8, vram := [(0x0, 0x10#8), (0x1, 0x20#8)] } }
      (fun t => (t.p, t.ppu.vram, t.ppu.rbuf, t.ppu.vaddr, t.cycles)) = some (0x20#8, [(0x0, 0x10#8), (0x1, 0x42#8)], 0x10#8, 0x2002#16, 5) := by decide

/-- Vector P11. -/
theorem test_ppu_unmapped :
    after { machine [0xAD#8, 0x07#8, 0x20#8] with ppu := { State.reset.ppu with vaddr := 0x3000#16, rbuf := 0x11#8 } }
      (fun t => (t.fault, t.ppu.vaddr, t.ppu.rbuf)) = some (some (.ppuUnmapped 0x3000#16), 0x3000#16, 0x11#8) := by decide

/-- Vector I1. -/
theorem test_nmi_entry :
    after { machine [0xEA#8] with p := 0xA0#8, pc := 0x8005#16, ppu := { State.reset.ppu with nmiPending := true } }
      (fun t => (t.ram, t.sp, t.p, t.ppu.nmiPending, t.cycles)) = some ([(0x1FB, 0xA0#8), (0x1FC, 0x05#8), (0x1FD, 0x80#8)], 0xFA#8, 0xA4#8, false, 7) := by decide

/-- Vector I2, the IRQ line asserted. -/
theorem test_irq_entry :
    after { machine [] with pc := 0x8005#16, p := 0x21#8, irq := { levels := [true], idle := false } }
      (fun t => (t.ram, t.sp, t.p, t.pc, t.cycles)) =
      some ([(0x1FB, 0x21#8), (0x1FC, 0x05#8), (0x1FD, 0x80#8)], 0xFA#8, 0x25#8, 0x9000#16, 6) := by decide

/-- Vector I3: P.I masks the line. -/
theorem test_irq_masked :
    after { machine [0xEA#8] with p := 0x24#8, irq := { levels := [true], idle := false } } (fun t => (t.pc, t.p)) =
      some (0x8001#16, 0x24#8) := by decide

/-- R301: a machine with a fault has no step. -/
theorem test_halted : step { machine [0xEA#8] with fault := some (.romWrite 0x8000#16) } = .fault (.romWrite 0x8000#16) := rfl

/-- The host's two questions on one word: LDA #$80 runs as the first instruction after reset. -/
theorem test_with_fetch_word :
    after (State.reset.withFetchWord 16 0x80A9) (fun t => (t.a, t.p, t.pc)) = some (0x80#8, 0xA0#8, 0x0002#16) := by
  set_option maxRecDepth 4000 in decide

/-! ### Witnesses: for every statement with hypotheses, concrete values that meet them, each clause at the ends of its range -/

/-- A machine at a boundary that fetches under either pulse order: `JMP $1234` at 0xFFFE, its last byte in RAM at 0x0000. -/
def wrapping (order : PulseOrder) : State :=
  { State.reset with
    cycles := 0, pc := 0xFFFE#16, ram := [(0, 0x12#8)], params := { State.reset.params with pulseOrder := order }
    cart := { Cartridge.blank with prg := [(0x3FFE, 0x4C#8), (0x3FFF, 0x34#8)] } }

/-- A running machine whose PC is `pc`. -/
def fetchingAt (pc : Addr) : State := { State.reset with cycles := 0, pc := pc }

/-- R300's codes and spec/95_test_vectors.md F1 to F7: each fault raised by one step. -/
theorem test_fault_codes :
    (∀ row ∈ [([0x02#8], 1), ([0x8D#8, 0x00#8, 0x80#8], 2), ([0xAD#8, 0x00#8, 0x20#8], 3), ([0x8D#8, 0x02#8, 0x20#8], 4),
        ([0x8D#8, 0x03#8, 0x20#8], 6), ([0x8D#8, 0x07#8, 0x20#8], 2)],
      after (machine row.1) State.faultCode = some (some row.2)) ∧
    after { machine [0xAD#8, 0x07#8, 0x20#8] with ppu := { State.reset.ppu with vaddr := 0x3000#16 } } State.faultCode =
      some (some 5) ∧
    after (machine [0xEA#8]) State.faultCode = some none := by decide

theorem witness_DecodeOfEncodeIsTheInstruction :
    (Instr.illegal 0x02#8).wf = true ∧ (Instr.illegal 0xFF#8).wf = true ∧ (Instr.ldaImm 0x00#8).wf = true ∧
    (Instr.jmpInd 0xFFFF#16).wf = true ∧ Instr.rti.wf = true := by decide

theorem witness_DecodedBytesEncodeBack :
    decode [0xFE#8, 0xFF#8, 0xFF#8, 0x00#8] = .ok (.incAbx 0xFFFF#16, [0x00#8]) ∧ decode [0x00#8] = .ok (.brk, []) ∧
    decode [0x02#8] = .ok (.illegal 0x02#8, []) := by decide

theorem witness_IllegalOpcodesHalt :
    isIllegalOpcode 0x02#8 = true ∧ isIllegalOpcode 0xFF#8 = true ∧ isIllegalOpcode 0x00#8 = false ∧
    isIllegalOpcode 0xFE#8 = false := by decide

theorem witness_StepRunsDecodedInstruction : ∀ order,
    let u := leadingPulses (wrapping order)
    u.AtFetch ∧
    decode [u.byteAt u.pc, u.byteAt (u.pc + 1#16), u.byteAt (u.pc + 2#16)] = .ok (.jmpAbs 0x1234#16, []) ∧
    ∀ k, k < (encode (.jmpAbs 0x1234#16)).length → PlainAddr (u.pc + BitVec.ofNat 16 k) := by
  intro order
  cases order <;> (simp only [State.AtFetch, State.Running, PlainAddr]; decide)

/-- A machine that fetches at `pc` with these bytes in RAM, and this one in the read buffer, which an opcode read at VRAM data delivers. -/
def fetchingFrom (pc : Addr) (ram : Memory) (rbuf : Byte) : State :=
  { fetchingAt pc with
    ram := ram, ppu := { State.reset.ppu with rbuf := rbuf }, params := { State.reset.params with pulseOrder := .cpuFirst } }

theorem fetchingFrom_atFetch (pc : Addr) (ram : Memory) (rbuf : Byte) :
    (leadingPulses (fetchingFrom pc ram rbuf)).AtFetch ∧ (leadingPulses (fetchingFrom pc ram rbuf)).pc = pc := by
  rw [show leadingPulses (fetchingFrom pc ram rbuf) = fetchingFrom pc ram rbuf from rfl]
  exact ⟨⟨⟨rfl, rfl⟩, rfl, rfl, Or.inl rfl⟩, rfl⟩

/-- Each clause at the ends of its range: the three offsets, the unmapped range, and rows with none, one (immediate and not) and two operand
bytes, read from RAM and through VRAM data. -/
theorem witness_FetchesThroughTheBus :
    (∀ pc ∈ [0x2000#16, 0x2001#16, 0x3FFE#16], (leadingPulses (fetchingFrom pc [] 0x00#8)).AtFetch ∧
      0x2000 ≤ pc.toNat ∧ pc.toNat < 0x4000 ∧ (pc.toNat % 8 = 0 ∨ pc.toNat % 8 = 1 ∨ pc.toNat % 8 = 6)) ∧
    (∀ pc ∈ [0x4000#16, 0x7FFF#16], (leadingPulses (fetchingFrom pc [] 0x00#8)).AtFetch ∧
      0x4000 ≤ pc.toNat ∧ pc.toNat < 0x8000) ∧
    (∀ row ∈ [(0xEA#8, 0), (0xA9#8, 1), (0xA5#8, 1), (0xAD#8, 2)],
      (leadingPulses (fetchingFrom 0x1FFF#16 [(0x7FF, row.1)] 0x00#8)).AtFetch ∧
      (leadingPulses (fetchingFrom 0x3FFF#16 [] row.1)).AtFetch ∧ (opcodeRow row.1).mode.operandBytes = row.2) := by
  refine ⟨fun pc h => ⟨(fetchingFrom_atFetch pc _ _).1, ?_⟩, fun pc h => ⟨(fetchingFrom_atFetch pc _ _).1, ?_⟩, fun row h =>
    ⟨(fetchingFrom_atFetch _ _ _).1, (fetchingFrom_atFetch _ _ _).1, ?_⟩⟩
  · simp only [List.mem_cons, List.not_mem_nil, or_false] at h; rcases h with rfl | rfl | rfl <;> decide
  · simp only [List.mem_cons, List.not_mem_nil, or_false] at h; rcases h with rfl | rfl <;> decide
  · simp only [List.mem_cons, List.not_mem_nil, or_false] at h; rcases h with rfl | rfl | rfl | rfl <;> decide

/-- R76 and R130: BRK and its diagnostic from the unmapped range, and where PC and the counter stand after an operand-byte read that
faults at 0x2000, immediate, zero page, and the first and the second byte of absolute. -/
theorem test_fetch_outside_ram_and_rom :
    after (fetchingAt 0x7FFF#16) (fun t => (t.sp, t.cycles, t.diag, t.fault)) = some (0xFA#8, 6, [.unmappedRead 0x7FFF#16], none) ∧
    (∀ row ∈ [(0xA9#8, 0x2001#16, 2), (0xA5#8, 0x2000#16, 3), (0xAD#8, 0x2000#16, 4)],
      after (fetchingFrom 0x1FFF#16 [(0x7FF, row.1)] 0x00#8) (fun t => (t.pc, t.cycles, t.fault)) =
        some (row.2.1, row.2.2, some (.readWriteOnly 0x2000#16))) ∧
    after (fetchingFrom 0x1FFE#16 [(0x7FE, 0xAD#8)] 0x00#8) (fun t => (t.pc, t.cycles, t.fault)) =
      some (0x2000#16, 4, some (.readWriteOnly 0x2000#16)) := by decide

theorem witness_ExecutingPulseOnlyCountsDown : State.reset.Running ∧ 0 < State.reset.cycles ∧
    ({ State.reset with cycles := 1 } : State).Running := by
  simp only [State.Running]
  decide

/-- SP = 0x01, so that the three pushes wrap. -/
theorem witness_NmiEntry :
    let s : State := { fetchingAt 0xC000#16 with sp := 0x01#8, ppu := { State.reset.ppu with nmiPending := true } }
    s.Running ∧ s.cycles = 0 ∧ s.ppu.nmiPending = true ∧ s.ram.wf = true := by
  simp only [State.Running]
  decide

theorem witness_IrqEntry :
    let s : State := { fetchingAt 0xC000#16 with sp := 0x01#8, irq := { levels := [], idle := true } }
    s.Running ∧ s.cycles = 0 ∧ s.ppu.nmiPending = false ∧ s.irq.level = true ∧ s.flag .i = false ∧ s.ram.wf = true := by
  simp only [State.Running]
  decide

theorem witness_PulsesWithoutAStep :
    ({ State.reset with fault := some (.romWrite 0x8000#16) } : State).fault = some (.romWrite 0x8000#16) ∧
    (construct Cartridge.blank Init.zero Config.defaultParams { levels := [], idle := false }).fault = none ∧
    (construct Cartridge.blank Init.zero Config.defaultParams { levels := [], idle := false }).cpuReady = false :=
  ⟨rfl, rfl, rfl⟩

/-- A state with the invariant whose step runs an instruction. -/
theorem witness_EveryStepKeepsInvariant : (machine [0xEA#8]).Inv ∧ ∃ t, step (machine [0xEA#8]) = .next t := by
  refine ⟨?_, _, rfl⟩
  simp only [State.Inv, State.MemoriesWf, Cartridge.Wf, Ppu.Wf, State.CpuWf]
  decide

theorem witness_ResetSetsTheCpuOnly :
    State.reset.fault = none ∧ State.reset.params.resetPush = false ∧
    ({ State.reset with params := { State.reset.params with resetPush := true } } : State).params.resetPush = true :=
  ⟨rfl, rfl, rfl⟩

/-- The ends of the four memories. -/
theorem witness_ConstructedMachine :
    let s := construct Cartridge.blank
      { ram := List.replicate 3000 0x11#8, vram := [0x22#8], palette := List.replicate 32 0x33#8, oam := [0x44#8] }
      Config.defaultParams { levels := [], idle := false }
    s.ppu.vram.read 0 = 0x22#8 ∧ s.ppu.vram.read 2047 = 0x00#8 ∧ s.ppu.palette.read 31 = 0x33#8 ∧
    s.ppu.oam.read 0 = 0x44#8 ∧ s.ppu.oam.read 255 = 0x00#8 := by decide

/-- A 16 KB image of zeros, vector C1 of spec/95_test_vectors.md. -/
def zeroImage : List Byte :=
  [0x4E#8, 0x45#8, 0x53#8, 0x1A#8, 0x01#8, 0x01#8, 0x00#8, 0x00#8, 0x00#8, 0x00#8, 0x00#8, 0x00#8, 0x00#8, 0x00#8, 0x00#8,
    0x00#8] ++ List.replicate 24576 0x00#8

theorem zeroImage_length : zeroImage.length = 24592 := by
  rw [zeroImage, List.length_append, List.length_replicate]
  rfl

theorem witness_BootedMachineMeetsInvariant : load zeroImage = .ok (imageOf zeroImage) := by
  have ho : prgOffset zeroImage = 16 := rfl
  have hp : prgLength zeroImage = 16384 := rfl
  have hc : chrLength zeroImage = 8192 := rfl
  have hm : zeroImage.take 4 = magic := rfl
  have ha : admission zeroImage = none := rfl
  rw [load, zeroImage_length, ho, hp, hc, hm, ha, if_neg (by decide), if_neg (by simp), if_neg (by decide)]

theorem witness_ResetIsFollowedByEightIdlePulses : State.reset.fault = none := rfl

theorem witness_StepsNeverChangeCartridgeOrOam : ∃ t, step State.reset = .next t := ⟨_, rfl⟩

theorem witness_FrameTiming :
    State.reset.fault = none ∧ State.reset.ppu.scanline < 262 ∧ State.reset.ppu.cycle < 341 ∧ State.reset.ppu.scanline = 0 ∧
    State.reset.ppu.cycle = 0 ∧ State.reset.ppu.status.getLsbD 7 = false ∧ State.reset.ppu.nmiPending = false := by decide

/-- The positions (241, 1), (241, 2), (0, 340), (261, 340) and what one pulse leaves there, with the NMI enabled. -/
theorem witness_PpuPulseChangesOnlyTimingState :
    let at_ := fun (line cycle : Nat) =>
      (ppuPulse { State.reset with ppu := { State.reset.ppu with ctrl := 0x80#8, scanline := line, cycle := cycle } }).ppu
    let look := fun (u : Ppu) => (u.scanline, u.cycle, u.status, u.nmiPending)
    look (at_ 241 1) = (241, 2, 0x80#8, true) ∧ look (at_ 241 2) = (241, 3, 0x00#8, false) ∧
    look (at_ 0 340) = (1, 0, 0x00#8, false) ∧ look (at_ 261 340) = (0, 0, 0x00#8, false) := by decide

theorem witness_RamReadsLastWriteThroughMirrors :
    (0x0000#16).toNat < 0x2000 ∧ (0x1FFF#16).toNat < 0x2000 ∧ State.reset.ram.wf = true ∧
    memWrite 0x1FFF#16 0x5A#8 State.reset = .ok () { State.reset with ram := [(0x7FF, 0x5A#8)] } := ⟨by decide, by decide, rfl, rfl⟩

theorem witness_ProgramRomWindow :
    0x8000 ≤ (0x8000#16).toNat ∧ 0x8000 ≤ (0xFFFF#16).toNat ∧ (machine []).cart.prgUnits = 1#8 ∧
    ({ Cartridge.blank with prgUnits := 2#8 } : Cartridge).prgUnits = 2#8 ∧
    (machine []).cart.prgByte 0xBFFF#16 = 0x90#8 ∧ (machine []).cart.prgByte 0xFFFF#16 = 0x90#8 := by decide

theorem witness_UnmappedRangeOnlyRecords : ∀ a ∈ [0x4000#16, 0x7FFF#16], 0x4000 ≤ a.toNat ∧ a.toNat < 0x8000 := by simp

theorem witness_WriteToRomFaults : ∀ a ∈ [0x8000#16, 0xFFFF#16], 0x8000 ≤ a.toNat := by simp

theorem witness_PpuRegistersMirror :
    (0x2007#16).toNat % 8 = (0x3FFF#16).toNat % 8 ∧ 0x2000 ≤ (0x2007#16).toNat ∧ (0x3FFF#16).toNat < 0x4000 ∧
    (0x2007#16).toNat % 8 ≠ 2 ∧ (0x2007#16).toNat % 8 ≠ 0 ∧ (0x2007#16).toNat % 8 ≠ 1 ∧ (0x2007#16).toNat % 8 ≠ 6 := by decide

theorem witness_ControlAndMaskWritesStore : ∀ a ∈ [0x2000#16, 0x3FF8#16, 0x2001#16, 0x3FF9#16],
    0x2000 ≤ a.toNat ∧ a.toNat < 0x4000 ∧ (a.toNat % 8 = 0 ∨ a.toNat % 8 = 1) := by simp

theorem witness_StatusRead : ∀ a ∈ [0x2002#16, 0x3FFA#16], 0x2000 ≤ a.toNat ∧ a.toNat < 0x4000 ∧ a.toNat % 8 = 2 := by simp

/-- Both values of the latch. -/
theorem witness_VramAddressWrites : (∀ a ∈ [0x2006#16, 0x3FFE#16], 0x2000 ≤ a.toNat ∧ a.toNat < 0x4000 ∧ a.toNat % 8 = 6) ∧
    State.reset.ppu.w = false ∧ (writeVramAddr 0xFF#8 { State.reset.ppu with vaddr := 0x0012#16 }).vaddr = 0x3F12#16 ∧
    (writeVramAddr 0x34#8 { State.reset.ppu with vaddr := 0x2100#16, w := true }).vaddr = 0x2134#16 := by
  simp
  decide

/-- The ends of the four ranges of the PPU's address space, which a VRAM data read and write distinguish. -/
theorem witness_VramDataRead :
    (∀ a ∈ [0x2007#16, 0x3FFF#16], 0x2000 ≤ a.toNat ∧ a.toNat < 0x4000 ∧ a.toNat % 8 = 7) ∧
    (∀ v ∈ [0x0000#16, 0x1FFF#16], v.toNat < 0x2000) ∧
    (∀ v ∈ [0x2000#16, 0x2FFF#16], 0x2000 ≤ v.toNat ∧ v.toNat < 0x3000) ∧
    (∀ v ∈ [0x3000#16, 0x3EFF#16], 0x3000 ≤ v.toNat ∧ v.toNat < 0x3F00) ∧
    (∀ v ∈ [0x3F00#16, 0x3FFF#16], 0x3F00 ≤ v.toNat ∧ v.toNat < 0x4000) := by simp

/-- A VRAM data write at the ends of the two ranges that store. -/
theorem witness_VramDataWrite :
    State.reset.ppu.vram.wf = true ∧ State.reset.ppu.palette.wf = true ∧
    (∀ v ∈ [0x2000#16, 0x2FFF#16, 0x3F00#16, 0x3FFF#16], v.toNat < 0x4000) ∧
    ntIndex .horizontal 0x2FFF = 0x7FF ∧ palIndex 0x3FFF = 0x1F := by
  simp
  decide

theorem witness_DirectionViolations :
    (∀ a ∈ [0x2000#16, 0x2001#16, 0x2006#16, 0x3FF8#16, 0x3FF9#16, 0x3FFE#16],
      0x2000 ≤ a.toNat ∧ a.toNat < 0x4000 ∧ (a.toNat % 8 = 0 ∨ a.toNat % 8 = 1 ∨ a.toNat % 8 = 6)) ∧
    ∀ a ∈ [0x2002#16, 0x3FFA#16], 0x2000 ≤ a.toNat ∧ a.toNat < 0x4000 ∧ a.toNat % 8 = 2 := by simp

theorem witness_UnimplementedOffsets :
    (∀ a ∈ [0x2003#16, 0x2004#16, 0x2005#16, 0x3FFB#16, 0x3FFC#16, 0x3FFD#16],
      0x2000 ≤ a.toNat ∧ a.toNat < 0x4000 ∧ 3 ≤ a.toNat % 8 ∧ a.toNat % 8 ≤ 5) ∧
    State.reset.params.ppuUnimpl = .fault ∧
    ({ State.reset.params with ppuUnimpl := .ignore } : Params).ppuUnimpl = .ignore := by
  simp
  decide

theorem witness_NametableAndPaletteFolds :
    ntIndex .vertical 0x2BFF = 0x3FF ∧ ntIndex .horizontal 0x2800 = 0x400 ∧ palIndex 0x3F10 = 0 ∧ palIndex 0x3FFC = 0x0C ∧
    palIndex 0x3F11 = 0x11 := by decide

theorem witness_BusReadFrame :
    memRead 0x2007#16 State.reset = .ok 0x00#8 { State.reset with ppu := { State.reset.ppu with vaddr := 0x0001#16 } } ∧
    memRead 0x2000#16 State.reset = .stop { State.reset with fault := some (.readWriteOnly 0x2000#16) } := ⟨rfl, rfl⟩

theorem witness_OperandFetch : ∀ m ∈ [MemOperand.zp 0xFF#8, .abs 0x1FFF#16, .abs 0x8000#16, .abs 0xFFFF#16],
    PlainAddr (m.ea State.reset) := by
  simp only [PlainAddr]
  decide

/-! For each operation over an operand: a form of it, and a state in which its operand is read, and for a memory form one in which
the read faults. -/

/-- An operand read that delivers, an immediate one, and one that faults. -/
theorem witness_operands :
    (Source.mem (.abs 0x0000#16)).fetch State.reset = .ok 0x00#8 State.reset ∧
    (Source.imm 0x80#8).fetch State.reset = .ok 0x80#8 State.reset ∧
    (Source.mem (.abs 0x2000#16)).fetch State.reset =
      .stop { State.reset with fault := some (.readWriteOnly 0x2000#16) } := ⟨rfl, rfl, rfl⟩

theorem witness_LoadsSetTheirRegister :
    readsAs (.ldaImm 0x80#8) = some ⟨.lda, .imm 0x80#8, 0xA9#8, 2⟩ ∧
    readsAs (.ldxAbs 0x2000#16) = some ⟨.ldx, .mem (.abs 0x2000#16), 0xAE#8, 4⟩ ∧
    readsAs (.ldyZpx 0xFF#8) = some ⟨.ldy, .mem (.zpx 0xFF#8), 0xB4#8, 4⟩ := ⟨rfl, rfl, rfl⟩

/-- The ends of the four ranges of the store's address. -/
theorem witness_StoresWriteTheirRegister :
    (∀ a ∈ [0x0000#16, 0x1FFF#16], storesAs (.staAbs a) = some ⟨.a, .abs a, 0x8D#8, 4⟩ ∧ a.toNat < 0x2000) ∧
    (∀ a ∈ [0x2000#16, 0x3FFF#16], storesAs (.stxAbs a) = some ⟨.x, .abs a, 0x8E#8, 4⟩ ∧ 0x2000 ≤ a.toNat ∧ a.toNat < 0x4000) ∧
    (∀ a ∈ [0x4000#16, 0x7FFF#16], storesAs (.styAbs a) = some ⟨.y, .abs a, 0x8C#8, 4⟩ ∧ 0x4000 ≤ a.toNat ∧ a.toNat < 0x8000) ∧
    (∀ a ∈ [0x8000#16, 0xFFFF#16], storesAs (.staAbx a) = some ⟨.a, .abx a, 0x9D#8, 5⟩ ∧ 0x8000 ≤ a.toNat) ∧
    State.reset.ram.wf = true := by
  refine ⟨fun a h => ⟨rfl, ?_⟩, fun a h => ⟨rfl, ?_⟩, fun a h => ⟨rfl, ?_⟩, fun a h => ⟨rfl, ?_⟩, rfl⟩ <;> revert a <;> simp

theorem witness_AdcAddsWithCarry : readsAs (.adcIzy 0xFF#8) = some ⟨.adc, .mem (.izy 0xFF#8), 0x71#8, 5⟩ := rfl

theorem witness_SbcSubtractsWithBorrow : readsAs (.sbcIzx 0xFF#8) = some ⟨.sbc, .mem (.izx 0xFF#8), 0xE1#8, 6⟩ := rfl

theorem witness_LogicCombinesBitwise :
    readsAs (.andImm 0x0F#8) = some ⟨.and, .imm 0x0F#8, 0x29#8, 2⟩ ∧ readsAs (.oraZp 0x10#8) = some ⟨.ora, .mem (.zp 0x10#8), 0x05#8, 3⟩ ∧
    readsAs (.eorAby 0x02F0#16) = some ⟨.eor, .mem (.aby 0x02F0#16), 0x59#8, 4⟩ := ⟨rfl, rfl, rfl⟩

theorem witness_BitTestsTheOperand : readsAs (.bitAbs 0x2002#16) = some ⟨.bit, .mem (.abs 0x2002#16), 0x2C#8, 4⟩ := rfl

theorem witness_ComparesSetCarryZeroNegative :
    readsAs (.cmpZpx 0x10#8) = some ⟨.cmp, .mem (.zpx 0x10#8), 0xD5#8, 4⟩ ∧ readsAs (.cpxImm 0x00#8) = some ⟨.cpx, .imm 0x00#8, 0xE0#8, 2⟩ ∧
    readsAs (.cpyImm 0x81#8) = some ⟨.cpy, .imm 0x81#8, 0xC0#8, 2⟩ := ⟨rfl, rfl, rfl⟩

/-- A memory form whose operand lies in RAM, and one whose write faults (INC $2002). -/
theorem witness_IncAndDecModifyMemory :
    modifiesAs (.incZp 0x10#8) = some ⟨.inc, .mem (.zp 0x10#8), 0xE6#8, 5⟩ ∧
    modifiesAs (.decAbx 0x1FFF#16) = some ⟨.dec, .mem (.abx 0x1FFF#16), 0xDE#8, 7⟩ ∧
    ((MemOperand.abx 0x1FFF#16).ea State.reset).toNat < 0x2000 ∧ State.reset.ram.wf = true ∧
    memRead 0x2002#16 State.reset = .ok 0x00#8 State.reset ∧
    memWrite 0x2002#16 0x01#8 State.reset = .stop { State.reset with fault := some (.writeReadOnly 0x2002#16) } :=
  ⟨rfl, rfl, by decide, rfl, rfl, rfl⟩

theorem witness_ShiftsAndRotates :
    modifiesAs .aslAcc = some ⟨.asl, .acc, 0x0A#8, 2⟩ ∧ modifiesAs .rolAcc = some ⟨.rol, .acc, 0x2A#8, 2⟩ ∧
    modifiesAs (.lsrZp 0x10#8) = some ⟨.lsr, .mem (.zp 0x10#8), 0x46#8, 5⟩ ∧
    modifiesAs (.rorAbs 0x0300#16) = some ⟨.ror, .mem (.abs 0x0300#16), 0x6E#8, 6⟩ := ⟨rfl, rfl, rfl, rfl⟩

/-- Taken and not taken, without and with a page cross. -/
theorem witness_BranchesFollowTheirFlag :
    branchesAs (.bne 0xFA#8) = some ⟨.z, false, 0xFA#8, 0xD0#8⟩ ∧ branchesAs (.bcs 0x01#8) = some ⟨.c, true, 0x01#8, 0xB0#8⟩ ∧
    State.reset.flag .z = false ∧ State.reset.flag .c ≠ true := ⟨rfl, rfl, by decide, by decide⟩

/-- A pointer with the page wrap, one without, and one whose read faults. -/
theorem witness_JumpsSetPc :
    PlainAddr 0x02FF#16 ∧ PlainAddr 0x0200#16 ∧ PlainAddr 0xFFFE#16 ∧
    memRead 0x2000#16 State.reset = .stop { State.reset with fault := some (.readWriteOnly 0x2000#16) } := by
  refine ⟨?_, ?_, ?_, rfl⟩ <;> simp only [PlainAddr] <;> decide

theorem witness_JsrPushesItsLastByteAddress : ({ State.reset with sp := 0x00#8 } : State).ram.wf = true := rfl

theorem witness_RtsReturnsFromJsr :
    State.reset.ram.wf = true ∧ ∃ t, exec (.jsr 0x9000#16) { State.reset with sp := 0x00#8, pc := 0x8003#16 } = .next t :=
  ⟨rfl, _, rfl⟩

theorem witness_PushesWriteOneStackByte : ({ State.reset with sp := 0x00#8 } : State).ram.wf = true := rfl

theorem witness_BrkPushesAndVectors : ({ State.reset with sp := 0x01#8, pc := 0xFFFF#16 } : State).ram.wf = true := rfl

/-- Both interrupts, and BRK, from a state whose SP wraps. -/
theorem witness_RtiUndoesAnEntry : ∃ t u v,
    interruptEntry .nmi { State.reset with sp := 0x01#8 } = .ok () t ∧ interruptEntry .irq { State.reset with sp := 0x01#8 } = .ok () u ∧
    exec .brk { State.reset with sp := 0x01#8 } = .next v ∧ State.reset.ram.wf = true :=
  ⟨_, _, _, rfl, rfl, rfl, rfl⟩

/-- Each way of failing: too short, a wrong magic, too short for its sizes, and each admission check. -/
theorem witness_LoaderRejects :
    ([0x4E#8] : List Byte).length < 16 ∧ 16 ≤ (List.replicate 16 0x00#8).length ∧
    load (List.replicate 16 0x00#8) = .error .badMagic ∧ load [0x4E#8] = .error .truncated ∧
    load ([0x4E#8, 0x45#8, 0x53#8, 0x1A#8, 0x01#8, 0x01#8] ++ List.replicate 10 0x00#8) = .error .truncated ∧
    load ([0x4E#8, 0x45#8, 0x53#8, 0x1A#8, 0x00#8, 0x00#8, 0x00#8, 0x10#8] ++ List.replicate 8 0x00#8) =
      .error (.unsupported .mapper) ∧
    load ([0x4E#8, 0x45#8, 0x53#8, 0x1A#8] ++ List.replicate 12 0x00#8) = .error (.unsupported .prgUnits) := by decide

/-- The smallest admitted image, with the trainer flag clear. -/
theorem witness_LoaderExtractsTheImage :
    16 ≤ zeroImage.length ∧ zeroImage.getD 0 0x00#8 = 0x4E#8 ∧ zeroImage.getD 1 0x00#8 = 0x45#8 ∧ zeroImage.getD 2 0x00#8 = 0x53#8 ∧
    zeroImage.getD 3 0x00#8 = 0x1A#8 ∧ 16 + 16384 * (zeroImage.getD 4 0x00#8).toNat + 8192 ≤ zeroImage.length ∧
    (zeroImage.getD 6 0x00#8).getLsbD 2 = false ∧ (zeroImage.getD 6 0x00#8).toNat / 16 = 0 ∧
    (zeroImage.getD 7 0x00#8).toNat / 16 = 0 ∧ zeroImage.getD 4 0x00#8 = 1#8 ∧ zeroImage.getD 5 0x00#8 = 1#8 ∧
    (zeroImage.getD 6 0x00#8).getLsbD 3 = false := by
  rw [zeroImage_length]
  exact ⟨by decide, rfl, rfl, rfl, rfl, by decide, rfl, rfl, rfl, rfl, rfl, rfl⟩

end Sys2Proof.Tests
end

section
/-! PROOFS. The statements of spec/10_state.md: the invariant of the machine, what no step changes, `construct` and `reset()`. -/

namespace Sys2Proof.Machine

/-! ### What a step can do -/

/-- A step that answers a next state is a CPU pulse that does, between the call's PPU pulses (R315). -/
theorem step_next {s t : State} (h : step s = .next t) :
    ∃ u, cpuPulse (leadingPulses s) = .next u ∧ t = trailingPulses u := by
  unfold step advance at h
  cases hp : cpuPulse (leadingPulses s) with
  | next u =>
    rw [hp] at h
    cases h
    exact ⟨u, rfl, rfl⟩
  | fault f => rw [hp] at h; cases h
  | refused q => rw [hp] at h; cases h

/-- A CPU pulse that answers a next state counts down, or is a boundary with the decrement that a fault prevents (R121, R122, R130). -/
theorem cpuPulse_next {s t : State} (h : cpuPulse s = .next t) :
    t = s.setCycles (s.cycles - 1) ∨
    ∃ u, boundary s.irq.level (s.setIrq s.irq.next) = .next u ∧
      t = if u.fault.isSome then u else u.setCycles (u.cycles - 1) := by
  unfold cpuPulse at h
  split at h
  · cases h
  · split at h
    · split at h
      · right
        cases hb : boundary s.irq.level (s.setIrq s.irq.next) with
        | next u =>
          rw [hb] at h
          cases h
          exact ⟨u, rfl, rfl⟩
        | fault f => rw [hb] at h; cases h
        | refused q => rw [hb] at h; cases h
      · cases h
        exact .inl rfl
    · cases h

section
variable {P : State → Prop} (hP : ∀ s : State, P s → P (s.setPpu s.ppu.tick)) {s : State}
include hP

/-- What every PPU pulse keeps is kept by those before the CPU pulse, whatever their number is. -/
theorem leadingPulses_kept (h : P s) : P (leadingPulses s) := by
  unfold leadingPulses
  split
  · exact ppuPulses_kept hP 3 h
  · exact h

/-- What every PPU pulse keeps is kept by those after the CPU pulse. -/
theorem trailingPulses_kept (h : P s) : P (trailingPulses s) := by
  unfold trailingPulses
  split
  · exact h
  · exact ppuPulses_kept hP 3 h

end

/-! ### What no step changes -/

/-- A Bus read that delivers changes at most the PPU's status, latch, read buffer and VRAM address, and the log (R67). -/
theorem memRead_frame {a : Addr} {s t : State} {v : Byte} (h : memRead a s = .ok v t) :
    t = { s with diag := t.diag, ppu := { s.ppu with
      status := t.ppu.status, w := t.ppu.w, rbuf := t.ppu.rbuf, vaddr := t.ppu.vaddr } } := by
  rcases memRead_ok h with rfl | rfl | rfl | ⟨b, rfl⟩ <;> rfl

/-- A Bus write that delivers changes at most RAM, the log, the PPU's writable registers and the two PPU memories (R62). -/
theorem memWrite_frame {a : Addr} {s t : State} {v : Byte} (h : memWrite a v s = .ok () t) :
    t = { s with ram := t.ram, diag := t.diag, ppu := { s.ppu with
      vram := t.ppu.vram, palette := t.ppu.palette, ctrl := t.ppu.ctrl, mask := t.ppu.mask, vaddr := t.ppu.vaddr
      w := t.ppu.w } } := by
  rcases memWrite_ok h with ⟨-, rfl⟩ | ⟨-, -, hp⟩ | rfl
  · rfl
  · rcases ppuRegWrite_ok hp with rfl | rfl | rfl | rfl | ⟨u, hu, rfl⟩
    · rfl
    · rfl
    · rfl
    · unfold writeVramAddr
      split <;> rfl
    · rcases ppuWrite_ok hu with ⟨-, -, rfl⟩ | ⟨-, rfl⟩ <;> rfl
  · rfl

/-- `t` has the cartridge, OAM, parameters and `cpu_ready` of `s`. -/
def State.SameFixed (s t : State) : Prop :=
  t.cart = s.cart ∧ t.ppu.oam = s.ppu.oam ∧ t.params = s.params ∧ t.cpuReady = s.cpuReady

theorem State.SameFixed.trans {s t u : State} (h : s.SameFixed t) (h' : t.SameFixed u) : s.SameFixed u := by
  obtain ⟨hc, ho, hp, hr⟩ := h
  obtain ⟨hc', ho', hp', hr'⟩ := h'
  exact ⟨hc'.trans hc, ho'.trans ho, hp'.trans hp, hr'.trans hr⟩

theorem memRead_sameFixed {a : Addr} {s t : State} {v : Byte} (h : memRead a s = .ok v t) : s.SameFixed t := by
  rw [memRead_frame h]
  exact ⟨rfl, rfl, rfl, rfl⟩

theorem memWrite_sameFixed {a : Addr} {s t : State} {v : Byte} (h : memWrite a v s = .ok () t) : s.SameFixed t := by
  rw [memWrite_frame h]
  exact ⟨rfl, rfl, rfl, rfl⟩

theorem tick_sameFixed (s : State) : s.SameFixed (s.setPpu s.ppu.tick) :=
  ⟨rfl, (congrArg Ppu.oam (Ppu.tick_frame s.ppu) :), rfl, rfl⟩

/-- No instruction changes the cartridge, OAM, the parameters or `cpu_ready`. -/
theorem kept_sameFixed (s : State) : Kept s.SameFixed where
  setA := fun _ _ h => h
  setX := fun _ _ h => h
  setY := fun _ _ h => h
  setSp := fun _ _ h => h
  setPc := fun _ _ h => h
  setP := fun _ _ h _ => h
  setFault := fun _ _ h => h
  read := fun _ _ _ _ h hr => h.trans (memRead_sameFixed hr)
  write := fun _ _ _ _ h hw => h.trans (memWrite_sameFixed hw)

theorem step_sameFixed {s t : State} (h : step s = .next t) : s.SameFixed t :=
  (kept_sameFixed s).step (fun _ _ hu => hu) (fun _ hu => hu) (fun _ hu => hu)
    (fun u hu => hu.trans (tick_sameFixed u)) ⟨rfl, rfl, rfl, rfl⟩ h

/-- Settles O17, from what every instruction and every PPU pulse leaves fixed. -/
theorem stepsNeverChangeCartridgeOrOam : Obligations.StepsNeverChangeCartridgeOrOam := by
  unfold Obligations.StepsNeverChangeCartridgeOrOam
  exact fun _ _ h => step_sameFixed h

/-! ### The invariant -/

theorem Kept.and {P Q : State → Prop} (k : Kept P) (l : Kept Q) : Kept fun s => P s ∧ Q s where
  setA := fun s v h => ⟨k.setA s v h.1, l.setA s v h.2⟩
  setX := fun s v h => ⟨k.setX s v h.1, l.setX s v h.2⟩
  setY := fun s v h => ⟨k.setY s v h.1, l.setY s v h.2⟩
  setSp := fun s v h => ⟨k.setSp s v h.1, l.setSp s v h.2⟩
  setPc := fun s v h => ⟨k.setPc s v h.1, l.setPc s v h.2⟩
  setP := fun s v h hv => ⟨k.setP s v h.1 hv, l.setP s v h.2 hv⟩
  setFault := fun s f h => ⟨k.setFault s f h.1, l.setFault s f h.2⟩
  read := fun a s v t h hr => ⟨k.read a s v t h.1 hr, l.read a s v t h.2 hr⟩
  write := fun a v s t h hw => ⟨k.write a v s t h.1 hw, l.write a v s t h.2 hw⟩

/-- The invariant without the cartridge, which no step changes, and with a bound of its own on the counter: 8 at every state, and
the base count of the instruction between its fetch and its execution. -/
def State.InvWithin (n : Nat) (s : State) : Prop :=
  (s.MemoriesWf ∧ s.ppu.Wf) ∧ s.flag .b = false ∧ s.flag .u = true ∧ s.cycles ≤ n

theorem State.inv_iff (s : State) : s.Inv ↔ s.cart.Wf ∧ s.InvWithin 8 :=
  ⟨fun ⟨hmem, hcart, hppu, hcpu⟩ => ⟨hcart, ⟨hmem, hppu⟩, hcpu⟩,
    fun ⟨hcart, ⟨hmem, hppu⟩, hcpu⟩ => ⟨hmem, hcart, hppu, hcpu⟩⟩

/-- The bound is the only part that reads the counter. -/
theorem State.InvWithin.setCycles {m n k : Nat} {s : State} (h : s.InvWithin m) (hk : k ≤ n) :
    (s.setCycles k).InvWithin n := by
  obtain ⟨hmem, hb, hu, -⟩ := h
  exact ⟨hmem, hb, hu, hk⟩

theorem State.InvWithin.cycles_le {n : Nat} {s : State} (h : s.InvWithin n) : s.cycles ≤ n := by
  obtain ⟨-, -, -, hn⟩ := h
  exact hn

theorem kept_invWithin (n : Nat) : Kept (State.InvWithin n) := kept_memories_and_ppu.and (kept_stored_flags n)

/-- A PPU pulse keeps the ranges of the PPU and touches neither a memory nor the CPU. -/
theorem State.InvWithin.tick {n : Nat} (s : State) (h : s.InvWithin n) : (s.setPpu s.ppu.tick).InvWithin n := by
  obtain ⟨⟨hmem, hppu⟩, hcpu⟩ := h
  refine ⟨⟨?_, hppu.tick⟩, hcpu⟩
  rw [Ppu.tick_frame]
  exact hmem

theorem opcodeRow_base_le (o : Byte) : (opcodeRow o).base ≤ 7 := by
  rw [← baseCycles_build o 0#8 0#8]
  exact baseCycles_le _

theorem InterruptKind.entryCycles_le (k : InterruptKind) : k.entryCycles ≤ 8 := by cases k <;> decide

theorem StatusKept.storedByEntry (p : Byte) : StatusKept p (storedByEntry p) := by
  right
  simp [Machine.storedByEntry, getFlag_putFlag]

/-- The entry of an interrupt keeps the invariant: its 7 or 8 cycles are where the bound 8 comes from (R310, R311). -/
theorem interruptEntry_invWithin (k : InterruptKind) {s : State} (h : s.InvWithin 8) :
    (interruptEntry k s).After (State.InvWithin 8) :=
  ((kept_invWithin 8).takeInterrupt _ _ _ h (.storedByEntry _)).andThen fun _ _ ht => ht.setCycles k.entryCycles_le

theorem fetchInstr_invWithin {s : State} (h : s.InvWithin 8) : (fetchInstr s).After (State.InvWithin 8) :=
  (kept_invWithin 8).fetchInstr (fun _ o hs => hs.setCycles ((opcodeRow_base_le o).trans (by decide))) h

/-- An instruction whose base count is in the counter ends within 8: base and added cycles are at most 7. -/
theorem exec_invWithin (i : Instr) {s : State} (h : s.InvWithin 8) (hc : s.cycles = i.baseCycles) :
    ∃ t, exec i s = .next t ∧ t.InvWithin 8 := by
  have hbase : s.InvWithin i.baseCycles := h.setCycles hc.le
  obtain ⟨t, n, ht, hinv, hn⟩ := (kept_invWithin i.baseCycles).exec i hbase
  have := hinv.cycles_le
  exact ⟨_, ht, hinv.setCycles (by omega)⟩

theorem boundary_invWithin (line : Bool) {s : State} (h : s.InvWithin 8) :
    ∃ t, boundary line s = .next t ∧ t.InvWithin 8 := by
  unfold boundary
  split
  · exact (interruptEntry_invWithin .nmi (s := s.setNmiPending false) h).finish
  · split
    · exact (interruptEntry_invWithin .irq h).finish
    · have hf := fetchInstr_invWithin h
      cases hr : fetchInstr s with
      | ok i t =>
        rw [hr] at hf
        exact exec_invWithin i hf (fetchInstr_cycles hr)
      | stop t =>
        rw [hr] at hf
        exact ⟨t, rfl, hf⟩

theorem State.InvWithin.countDown {n : Nat} {s : State} (h : s.InvWithin n) :
    (s.setCycles (s.cycles - 1)).InvWithin n := h.setCycles ((Nat.sub_le _ _).trans h.cycles_le)

theorem cpuPulse_invWithin {s t : State} (h : s.InvWithin 8) (hp : cpuPulse s = .next t) : t.InvWithin 8 := by
  rcases cpuPulse_next hp with rfl | ⟨u, hu, rfl⟩
  · exact h.countDown
  · obtain ⟨v, hv, hinv⟩ := boundary_invWithin s.irq.level (s := s.setIrq s.irq.next) h
    obtain rfl : v = u := Host.Outcome.next.inj (hv.symm.trans hu)
    split
    · exact hinv
    · exact hinv.countDown

theorem step_invWithin {s t : State} (h : s.InvWithin 8) (hs : step s = .next t) : t.InvWithin 8 := by
  obtain ⟨u, hu, rfl⟩ := step_next hs
  exact trailingPulses_kept State.InvWithin.tick
    (cpuPulse_invWithin (leadingPulses_kept State.InvWithin.tick h) hu)

/-- Settles O11: the cartridge stays, and every part of a step keeps the rest. -/
theorem everyStepKeepsInvariant : Obligations.EveryStepKeepsInvariant := by
  unfold Obligations.EveryStepKeepsInvariant
  intro s t h hs
  obtain ⟨hcart, hrest⟩ := s.inv_iff.mp h
  obtain ⟨hsame, -⟩ := step_sameFixed hs
  exact t.inv_iff.mpr ⟨hsame ▸ hcart, step_invWithin hrest hs⟩

/-! ### `reset()` -/

theorem byteAt_rom {a : Addr} (h : 0x8000 ≤ a.toNat) (s : State) : s.byteAt a = s.cart.prgByte a := by
  rw [State.byteAt, if_neg (by omega), if_neg (by omega)]

/-- The target of the reset vector, by the bytes at 0xFFFC and 0xFFFD (R71). -/
theorem vectorTarget_reset (s : State) :
    s.cart.vectorTarget resetVector = hiLo (s.byteAt 0xFFFD#16) (s.byteAt 0xFFFC#16) := by
  rw [byteAt_rom (by decide), byteAt_rom (by decide)]
  rfl

theorem beforeReset_of_no_push {s : State} (h : s.params.resetPush = false) : s.beforeReset = s := by
  simp [State.beforeReset, h]

theorem beforeReset_of_push {s : State} (h : s.params.resetPush = true) : s.beforeReset = resetPushes 3 s := by
  simp [State.beforeReset, h]

/-- Whether reset pushes or not, RAM and the count of free values are all that changes before the registers are set. -/
theorem beforeReset_frame (s : State) :
    s.beforeReset = { s with ram := s.beforeReset.ram, freeCount := s.beforeReset.freeCount } := by
  cases h : s.params.resetPush with
  | false => rw [beforeReset_of_no_push h]
  | true =>
    rw [beforeReset_of_push h]
    exact resetPushes_frame 3 s

/-- `reset()` in full, over the RAM and the count that the pushes leave (R331). -/
theorem hostReset_frame {s : State} (h : s.fault = none) : hostReset s = { s with
    a := 0x00#8, x := 0x00#8, y := 0x00#8, sp := 0xFD#8, p := 0x20#8
    pc := hiLo (s.byteAt 0xFFFD#16) (s.byteAt 0xFFFC#16), cycles := 8, cpuReady := true
    ram := s.beforeReset.ram, freeCount := s.beforeReset.freeCount } := by
  rw [hostReset_of_none h, vectorTarget_reset]
  generalize hiLo _ _ = vector
  rw [beforeReset_frame]

/-- Settles O13: `hostReset_frame`, with no push and with the pushes, which stay in page 1. -/
theorem resetSetsTheCpuOnly : Obligations.ResetSetsTheCpuOnly := by
  unfold Obligations.ResetSetsTheCpuOnly
  intro s hfault
  refine ⟨fun hp => ?_, fun hp => ?_⟩
  · rw [hostReset_frame hfault, beforeReset_of_no_push hp]
  · rw [hostReset_frame hfault, beforeReset_of_push hp]
    exact ⟨rfl, fun k hk => resetPushes_outside 3 s hk⟩

/-! ### `construct` -/

theorem construct_memoriesWf (c : Cartridge) (init : Init) (params : Params) (irq : IrqLine) :
    (construct c init params irq).MemoriesWf := by
  have hwf (vs : List Byte) (n : Nat) : (Memory.ofBytes (vs.take n)).wf = true := Memory.wf_ofBytes _
  have hin (vs : List Byte) (n : Nat) : (Memory.ofBytes (vs.take n)).within n = true :=
    Memory.within_ofBytes (List.length_take_le n vs)
  exact ⟨hwf _ _, hin _ _, hwf _ _, hin _ _, hwf _ _, hin _ _, hwf _ _, hin _ _⟩

theorem beforeReset_memoriesWf {s : State} (h : s.MemoriesWf) : s.beforeReset.MemoriesWf := by
  cases hp : s.params.resetPush with
  | false => rwa [beforeReset_of_no_push hp]
  | true =>
    obtain ⟨hwf, hin, hppu⟩ := h
    obtain ⟨hwf', hin'⟩ := resetPushes_wf 3 hwf hin
    rw [beforeReset_of_push hp, resetPushes_frame]
    exact ⟨hwf', hin', hppu⟩

theorem Ppu.initial_wf (vram oam palette : Memory) : (Ppu.initial vram oam palette).Wf := by
  simp [Ppu.Wf, Ppu.initial]

/-- A machine built around an admitted cartridge and reset meets the invariant, whatever its contents and parameters. -/
theorem hostReset_construct_inv {c : Cartridge} (hc : c.Wf) (init : Init) (params : Params) (irq : IrqLine) :
    (hostReset (construct c init params irq)).Inv := by
  have hmem := beforeReset_memoriesWf (construct_memoriesWf c init params irq)
  rw [beforeReset_frame] at hmem
  rw [hostReset_frame rfl]
  obtain ⟨hb, hu⟩ : getFlag 0x20#8 .b = false ∧ getFlag 0x20#8 .u = true := by decide
  exact ⟨hmem, hc, Ppu.initial_wf _ _ _, hb, hu, le_rfl⟩

theorem Cartridge.blank_wf : Cartridge.blank.Wf := ⟨.inl rfl, rfl, rfl, rfl, rfl, rfl, rfl⟩

/-- Settles O12: `State.reset` is the reset of a machine constructed with the blank cartridge. -/
theorem resetStateMeetsInvariant : Obligations.ResetStateMeetsInvariant := by
  unfold Obligations.ResetStateMeetsInvariant
  rw [reset_eq_hostReset_construct]
  exact hostReset_construct_inv Cartridge.blank_wf _ _ _

/-- A memory filled from a list cut to its size reads as the list inside that size. -/
theorem Memory.read_ofBytes_take (vs : List Byte) {n k : Nat} (h : k < n) :
    Memory.read (Memory.ofBytes (vs.take n)) k = vs.getD k unlistedByte := by
  rw [Memory.read_ofBytes, List.getD_eq_getElem?_getD, List.getD_eq_getElem?_getD, List.getElem?_take_of_lt h]

/-- Settles O14: the memories read as their lists, and the other fields are those that `construct` writes. -/
theorem constructedMachine : Obligations.ConstructedMachine := by
  unfold Obligations.ConstructedMachine
  intro c init params irq
  refine ⟨rfl, rfl, rfl, ?ram, ?vram, ?palette, ?oam, rfl, rfl, rfl, rfl, rfl, rfl, rfl, rfl, rfl⟩
  all_goals exact fun _ hk => Memory.read_ofBytes_take _ hk

end Sys2Proof.Machine
end

section
/-! PROOFS. The statements of spec/20_memory.md: the regions of the Bus's address map, the frame of a read, and the loader. -/

namespace Sys2Proof.Machine

/-! ### RAM -/

/-- A Bus write to RAM as a read of any RAM address sees it: the byte written at the mirrors of its address, and the byte before at
every other (R63). -/
theorem byteAt_setRam_write {s : State} (hwf : s.ram.wf = true) {a b : Addr} (v : Byte) (hb : b.toNat < 0x2000) :
    (s.setRam (s.ram.write (ramIndex a) v)).byteAt b =
      if b.toNat % 0x800 = a.toNat % 0x800 then v else s.byteAt b := by
  rw [State.byteAt, State.byteAt, if_pos hb, if_pos hb, State.setRam_ram, Memory.read_write hwf]
  rfl

/-- Settles O21: RAM is written and read at one index for all mirrors, and a write keeps its canonical form. -/
theorem ramReadsLastWriteThroughMirrors : Obligations.RamReadsLastWriteThroughMirrors := by
  unfold Obligations.RamReadsLastWriteThroughMirrors
  intro s a v ha hwf
  refine ⟨_, memWrite_ram ha v s, rfl, Memory.wf_write hwf _ _, fun b hb => ⟨?_, memRead_plain (.inl hb) s⟩⟩
  rw [memRead_plain (.inl hb), byteAt_setRam_write hwf v hb]

/-! ### The program-ROM window -/

/-- A 16 KB image is read at the low 14 bits of the address, in either half of the window (R65). -/
theorem memRead_rom_of_one_unit {s : State} (hu : s.cart.prgUnits = 1#8) {a : Addr} (ha : 0x8000 ≤ a.toNat) :
    memRead a s = .ok (s.prgByte (a.toNat % 0x4000)) s := by
  rw [memRead_rom ha, Cartridge.prgByte, prgIndex, if_pos hu]
  rfl

/-- A 32 KB image fills the window (R65). -/
theorem memRead_rom_of_two_units {s : State} (hu : s.cart.prgUnits = 2#8) {a : Addr} (ha : 0x8000 ≤ a.toNat) :
    memRead a s = .ok (s.prgByte (a.toNat - 0x8000)) s := by
  have hindex : a.toNat % 0x8000 = a.toNat - 0x8000 := by omega
  rw [memRead_rom ha, Cartridge.prgByte, prgIndex, if_neg (by rw [hu]; decide), hindex]
  rfl

/-- Offset `k` of a 16 KB image is read at `base + k`, for a half of the window that starts at `base`. -/
theorem memRead_rom_half {s : State} (hu : s.cart.prgUnits = 1#8) {base k : Nat} (hbase : base = 0x8000 ∨ base = 0xC000)
    (hk : k < 0x4000) : memRead (BitVec.ofNat 16 (base + k)) s = .ok (s.prgByte k) s := by
  have haddr : (BitVec.ofNat 16 (base + k)).toNat = base + k := (BitVec.toNat_ofNat ..).trans (Nat.mod_eq_of_lt (by omega))
  have hindex : (base + k) % 0x4000 = k := by omega
  rw [memRead_rom_of_one_unit hu (by omega), haddr, hindex]

/-- Settles O22: a write faults, and a read is at the offset that the image's size selects. -/
theorem programRomWindow : Obligations.ProgramRomWindow := by
  unfold Obligations.ProgramRomWindow
  intro s a ha
  exact ⟨fun v => memWrite_rom ha v s, fun hu => memRead_rom_of_one_unit hu ha, fun hu => memRead_rom_of_two_units hu ha,
    fun hu k hk => ⟨memRead_rom_half hu (.inl rfl) hk, memRead_rom_half hu (.inr rfl) hk⟩⟩

/-- Settles O24, by the last region of the Bus's write. -/
theorem writeToRomFaults : Obligations.WriteToRomFaults := by
  unfold Obligations.WriteToRomFaults
  exact fun s _ v ha => memWrite_rom ha v s

/-! ### The unmapped range and the PPU window -/

/-- Settles O23, by the third region of the Bus's read and write. -/
theorem unmappedRangeOnlyRecords : Obligations.UnmappedRangeOnlyRecords := by
  unfold Obligations.UnmappedRangeOnlyRecords
  exact fun s _ v hlo hhi => ⟨memRead_unmapped hlo hhi s, memWrite_unmapped hlo hhi v s⟩

/-- A register write sees the low three bits of its address alone, except at offset 2, whose fault records the address. -/
theorem ppuRegWrite_mirror {a b : Addr} (h : a.toNat % 8 = b.toNat % 8) (h2 : a.toNat % 8 ≠ 2) (v : Byte) (s : State) :
    ppuRegWrite a v s = ppuRegWrite b v s := by
  simp only [ppuRegWrite, ← h]
  split
  case h_3 hoffset => exact absurd hoffset h2
  all_goals rfl

/-- A register read does so except at offsets 0, 1 and 6, whose faults record the address. -/
theorem ppuRegRead_mirror {a b : Addr} (h : a.toNat % 8 = b.toNat % 8)
    (h016 : a.toNat % 8 ≠ 0 ∧ a.toNat % 8 ≠ 1 ∧ a.toNat % 8 ≠ 6) (s : State) : ppuRegRead a s = ppuRegRead b s := by
  have hoffset : a.toNat % 8 = 2 ∨ a.toNat % 8 = 3 ∨ a.toNat % 8 = 4 ∨ a.toNat % 8 = 5 ∨ a.toNat % 8 = 7 := by omega
  rcases hoffset with hk | hk | hk | hk | hk <;> simp only [ppuRegRead, ← h, hk]

/-- Settles O25: the window's accesses are the register accesses, which see the low three bits of the address. -/
theorem ppuRegistersMirror : Obligations.PpuRegistersMirror := by
  unfold Obligations.PpuRegistersMirror
  intro s a b v ha ha' hb hb' h
  rw [memWrite_ppu ha ha', memWrite_ppu hb hb', memRead_ppu ha ha', memRead_ppu hb hb']
  exact ⟨fun h2 => ppuRegWrite_mirror h h2 v s, fun h016 => ppuRegRead_mirror h h016 s⟩

/-! ### The frame of a read -/

/-- Settles O34: the frame of a read that delivers, and that of one that faults. -/
theorem busReadFrame : Obligations.BusReadFrame := by
  unfold Obligations.BusReadFrame
  refine fun s t a => ⟨fun v h => memRead_frame h, fun h => ?_⟩
  obtain ⟨f, rfl⟩ := memRead_stop h
  exact ⟨rfl, rfl⟩

/-! ### The header -/

/-- The first four bytes are the magic constant when each of them is (R79). -/
theorem take_four_eq_magic_iff {f : List Byte} (h : 16 ≤ f.length) : f.take 4 = magic ↔
    f.getD 0 0x00#8 = 0x4E#8 ∧ f.getD 1 0x00#8 = 0x45#8 ∧ f.getD 2 0x00#8 = 0x53#8 ∧ f.getD 3 0x00#8 = 0x1A#8 := by
  match f, h with
  | _ :: _ :: _ :: _ :: _, _ => simp [magic]

/-- `& 0xF0` clears the low nibble. -/
theorem toNat_and_F0 (x : Byte) : (x &&& 0xF0#8).toNat = x.toNat / 16 * 16 := by
  have hmask : x &&& 0xF0#8 = (x >>> 4) <<< 4 := by
    apply BitVec.eq_of_getLsbD_eq
    intro k hk
    interval_cases k <;> simp
  rw [hmask]
  simp only [BitVec.toNat_shiftLeft, BitVec.toNat_ushiftRight, Nat.shiftLeft_eq, Nat.shiftRight_eq_div_pow]
  omega

/-- The mapper id in numbers: the high nibble of byte 7 over that of byte 6 (R80). -/
theorem toNat_mapperId (f : List Byte) :
    (mapperId f).toNat = (f.getD 7 0x00#8).toNat / 16 * 16 + (f.getD 6 0x00#8).toNat / 16 := by
  have hlow : (f.getD 6 0x00#8).toNat / 16 < 2 ^ 4 := by omega
  rw [mapperId, headerByte, headerByte, BitVec.toNat_or, toNat_and_F0, BitVec.toNat_ushiftRight,
    Nat.shiftRight_eq_div_pow, Nat.mul_comm]
  exact (Nat.two_pow_add_eq_or_of_lt hlow _).symm

theorem mapperId_eq_zero {f : List Byte} (h6 : (f.getD 6 0x00#8).toNat / 16 = 0)
    (h7 : (f.getD 7 0x00#8).toNat / 16 = 0) : mapperId f = 0x00#8 :=
  BitVec.eq_of_toNat_eq (by rw [toNat_mapperId, h6, h7]; rfl)

/-! ### The outcomes of `load` (R82, R84) -/

section
variable {f : List Byte}

theorem load_of_no_header (h : f.length < 16) : load f = .error .truncated := if_pos h

theorem load_of_bad_magic (h : 16 ≤ f.length) (hm : f.take 4 ≠ magic) : load f = .error .badMagic := by
  rw [load, if_neg (Nat.not_lt.mpr h), if_pos hm]

variable (h : 16 ≤ f.length) (hm : f.take 4 = magic)
include h hm

theorem load_of_short_body (hl : f.length < prgOffset f + prgLength f + chrLength f) : load f = .error .truncated := by
  rw [load, if_neg (Nat.not_lt.mpr h), if_neg (not_not.mpr hm), if_pos hl]

theorem load_of_not_admitted (hl : prgOffset f + prgLength f + chrLength f ≤ f.length) {reason : Unsupported}
    (ha : admission f = some reason) : load f = .error (.unsupported reason) := by
  rw [load, if_neg (Nat.not_lt.mpr h), if_neg (not_not.mpr hm), if_neg (Nat.not_lt.mpr hl), ha]

theorem load_of_admitted (hl : prgOffset f + prgLength f + chrLength f ≤ f.length) (ha : admission f = none) :
    load f = .ok (imageOf f) := by
  rw [load, if_neg (Nat.not_lt.mpr h), if_neg (not_not.mpr hm), if_neg (Nat.not_lt.mpr hl), ha]

end

/-- The checks of R84 in numbers: a file that fails one of them is not admitted. -/
theorem admission_of_unsupported {f : List Byte}
    (h : (f.getD 7 0x00#8).toNat / 16 * 16 + (f.getD 6 0x00#8).toNat / 16 ≠ 0 ∨
      ((f.getD 4 0x00#8).toNat ≠ 1 ∧ (f.getD 4 0x00#8).toNat ≠ 2) ∨ (f.getD 5 0x00#8).toNat ≠ 1 ∨
      (f.getD 6 0x00#8).getLsbD 3 = true) : ∃ reason, admission f = some reason := by
  refine Option.ne_none_iff_exists'.mp fun hnone => ?_
  obtain ⟨hmapper, hprg, hchr, hfour⟩ := admission_none hnone
  rcases h with h | ⟨h1, h2⟩ | h | h
  · exact h (by rw [← toNat_mapperId, hmapper]; rfl)
  · rcases hprg with hprg | hprg
    · exact h1 (congrArg BitVec.toNat hprg)
    · exact h2 (congrArg BitVec.toNat hprg)
  · exact h (congrArg BitVec.toNat hchr)
  · exact Bool.false_ne_true (hfour.symm.trans h)

/-- Settles O59: the outcomes of `load` that are errors, in its order. -/
theorem loaderRejects : Obligations.LoaderRejects := by
  unfold Obligations.LoaderRejects
  intro f
  refine ⟨load_of_no_header, fun h hm => load_of_bad_magic h (mt (take_four_eq_magic_iff h).mp hm), fun h hm => ?_⟩
  have hmagic := (take_four_eq_magic_iff h).mpr hm
  refine ⟨load_of_short_body h hmagic, fun hl hbad => ?_⟩
  obtain ⟨reason, ha⟩ := admission_of_unsupported hbad
  exact ⟨reason, load_of_not_admitted h hmagic hl ha⟩

/-! ### The image of an admitted file -/

/-- A file that passes every check of R84 is admitted: the converse of `admission_none`. -/
theorem admission_of_supported {f : List Byte} (hmapper : mapperId f = 0x00#8)
    (hprg : headerByte f 4 = 1#8 ∨ headerByte f 4 = 2#8) (hchr : headerByte f 5 = 1#8)
    (hfour : (headerByte f 6).getLsbD 3 = false) : admission f = none := by
  have hunits : ¬(headerByte f 4 ≠ 1#8 ∧ headerByte f 4 ≠ 2#8) := fun ⟨h1, h2⟩ => hprg.elim h1 h2
  rw [admission, if_neg (not_not.mpr hmapper), if_neg hunits, if_neg (not_not.mpr hchr), hfour]
  rfl

/-- A buffer cut out of a file reads as the file from where the buffer starts (R82). -/
theorem read_ofBytes_slice (f : List Byte) (start : Nat) {n k : Nat} (h : k < n) :
    Memory.read (Memory.ofBytes ((f.drop start).take n)) k = f.getD (start + k) 0x00#8 := by
  rw [Memory.read_ofBytes_take _ h, List.getD_eq_getElem?_getD, List.getD_eq_getElem?_getD, List.getElem?_drop]
  rfl

/-- Settles O60: the file is admitted, and its buffers are the slices that `imageOf` cuts. -/
theorem loaderExtractsTheImage : Obligations.LoaderExtractsTheImage := by
  unfold Obligations.LoaderExtractsTheImage
  intro f b start prg h h0 h1 h2 h3 hl h6 h7 hprg hchr hfour
  have hmapper := mapperId_eq_zero h6 h7
  have hadmitted := admission_of_supported hmapper hprg hchr hfour
  have hchrLength : chrLength f = 8192 := by rw [chrLength, show headerByte f 5 = 1#8 from hchr]; rfl
  have hlength : prgOffset f + prgLength f + chrLength f ≤ f.length := hchrLength ▸ hl
  refine ⟨imageOf f, load_of_admitted h ((take_four_eq_magic_iff h).mpr ⟨h0, h1, h2, h3⟩) hlength hadmitted,
    imageOf_wf hadmitted, rfl, hchr, hmapper, rfl, fun k hk => read_ofBytes_slice f _ hk, fun k hk => ?_⟩
  exact read_ofBytes_slice f _ (hchrLength ▸ hk)

/-- Settles O15: a load succeeds only with the image of an admitted file, which is well-formed. -/
theorem bootedMachineMeetsInvariant : Obligations.BootedMachineMeetsInvariant := by
  unfold Obligations.BootedMachineMeetsInvariant
  intro f c init params irq h
  obtain ⟨rfl, hadmitted, -⟩ := load_ok h
  exact hostReset_construct_inv (imageOf_wf hadmitted) init params irq

end Sys2Proof.Machine
end

section
/-! PROOFS. The statements of spec/30_encoding.md: decode and encode agree, and the ILLEGAL entries. -/

namespace Sys2Proof

/-! ### What decoding answers -/

/-- No mode has more than two operand bytes (R101). -/
theorem Mode.operandBytes_le (m : Mode) : m.operandBytes ≤ 2 := by
  cases m <;> decide

/-- An instruction is decoded exactly from an opcode byte and as many operand bytes as its row's mode has; what the row builds from
them is the instruction, and the bytes after them are left (R100). -/
theorem decode_eq_ok_iff {bytes rest : List Byte} {i : Instr} :
    decode bytes = .ok (i, rest) ↔
      ∃ o ops, bytes = o :: (ops ++ rest) ∧ ops.length = (opcodeRow o).mode.operandBytes ∧
        (opcodeRow o).build (ops.getD 0 0#8) (ops.getD 1 0#8) = i := by
  constructor
  · intro h
    cases bytes with
    | nil => cases h
    | cons o tail =>
      unfold decode at h
      dsimp only at h
      split at h
      case h_1 hn => cases h; exact ⟨o, [], rfl, hn.symm, rfl⟩
      case h_2 b _ hn => cases h; exact ⟨o, [b], rfl, hn.symm, rfl⟩
      case h_3 b c _ hn => cases h; exact ⟨o, [b, c], rfl, hn.symm, rfl⟩
      case h_4 => cases h
  · rintro ⟨o, ops, rfl, hlen, rfl⟩
    unfold decode
    dsimp only
    match ops with
    | [] | [_] | [_, _] => rw [← hlen]; rfl
    | _ :: _ :: _ :: _ =>
      have := (opcodeRow o).mode.operandBytes_le
      simp only [List.length_cons] at hlen
      omega

/-! ### The round trips -/

/-- The row of the opcode byte of a well-formed instruction builds it from its operand bytes. -/
theorem build_of_encode {i : Instr} {o : Byte} {ops : List Byte} (hwf : i.wf = true) (h : encode i = o :: ops) :
    (opcodeRow o).build (ops.getD 0 0#8) (ops.getD 1 0#8) = i := by
  cases i
  case illegal =>
    cases h
    rw [opcodeRow_illegal o hwf]
    rfl
  -- an operand byte stands in the bytes as it is, an address as its two halves
  all_goals
    cases h
    first | rfl | exact congrArg _ (hiLo_hi8_lo8 _)

/-- A well-formed instruction has as many operand bytes as the mode of its opcode's row (R101). -/
theorem length_of_encode {i : Instr} {o : Byte} {ops : List Byte} (hwf : i.wf = true) (h : encode i = o :: ops) :
    ops.length = (opcodeRow o).mode.operandBytes := by
  have hbuild := encode_build o (ops.getD 0 0#8) (ops.getD 1 0#8)
  rw [build_of_encode hwf h, h] at hbuild
  rw [(List.cons.inj hbuild).2, List.length_take]
  exact Nat.min_eq_left (Mode.operandBytes_le _)

/-- An instruction has an opcode byte (R100). -/
theorem exists_encode_eq_cons (i : Instr) : ∃ o ops, encode i = o :: ops := by
  cases i <;> exact ⟨_, _, rfl⟩

/-- Settles O1: the operand bytes are as many as the row's mode has, and the row builds the instruction from them. -/
theorem decodeOfEncodeIsTheInstruction : Obligations.DecodeOfEncodeIsTheInstruction := by
  unfold Obligations.DecodeOfEncodeIsTheInstruction
  intro i rest hwf
  obtain ⟨o, ops, h⟩ := exists_encode_eq_cons i
  exact decode_eq_ok_iff.mpr ⟨o, ops, by rw [h]; rfl, length_of_encode hwf h, build_of_encode hwf h⟩

/-- What a row builds is well-formed: the 256 rows, one by one. -/
theorem build_wf (o b c : Byte) : ((opcodeRow o).build b c).wf = true := by
  obtain ⟨n, h, rfl⟩ : ∃ n, n < 256 ∧ o = BitVec.ofNat 8 n := ⟨o.toNat, o.isLt, by simp⟩
  interval_cases n <;> rfl

/-- At most two operand bytes are those that a row is given, cut to their number. -/
theorem take_getD_pair {ops : List Byte} (h : ops.length ≤ 2) :
    [ops.getD 0 0#8, ops.getD 1 0#8].take ops.length = ops := by
  match ops with
  | [] | [_] | [_, _] => rfl
  | _ :: _ :: _ :: _ => exact absurd h (by simp)

/-- Settles O2: the bytes that decoding consumes are those of the instruction that the row builds from them. -/
theorem decodedBytesEncodeBack : Obligations.DecodedBytesEncodeBack := by
  unfold Obligations.DecodedBytesEncodeBack
  intro bytes i rest h
  obtain ⟨o, ops, rfl, hlen, rfl⟩ := decode_eq_ok_iff.mp h
  refine ⟨build_wf o _ _, ?_⟩
  rw [encode_build, ← hlen, take_getD_pair (hlen ▸ Mode.operandBytes_le _)]
  rfl

/-! ### The ILLEGAL entries -/

/-- A row builds no illegal instruction but that of its own opcode, which is one of the list of R104. -/
theorem eq_of_build_eq_illegal {o b c o' : Byte} (h : (opcodeRow o).build b c = .illegal o') :
    o' = o ∧ isIllegalOpcode o = true := by
  have henc := encode_build o b c
  have hwf := build_wf o b c
  rw [h] at henc hwf
  obtain rfl : o' = o := (List.cons.inj henc).1
  exact ⟨rfl, hwf⟩

/-- An illegal instruction records its fault and changes nothing else (R254). -/
theorem exec_illegal (o : Byte) (s : Machine.State) :
    Machine.exec (.illegal o) s = .next { s with fault := some (.illegalOpcode o (s.pc - 1#16)) } := rfl

/-- Settles O3: the entries of the list, what they decode to and do, and that no other row builds an illegal instruction. -/
theorem illegalOpcodesHalt : Obligations.IllegalOpcodesHalt := by
  unfold Obligations.IllegalOpcodesHalt
  intro o
  refine ⟨fun h => ?_, fun h b c o' hb => ?_⟩
  · have hrow := opcodeRow_illegal o h
    refine ⟨congrArg Row.mode hrow, congrArg Row.base hrow, fun rest => ?_, exec_illegal o⟩
    exact decode_eq_ok_iff.mpr ⟨o, [], rfl, by rw [hrow]; rfl, by rw [hrow]; rfl⟩
  · exact Bool.false_ne_true (h.symm.trans (eq_of_build_eq_illegal hb).2)

/-- Settles O4: the decoder evaluated on the six words. -/
theorem writtenOutWordsDecode : Obligations.WrittenOutWordsDecode := by
  unfold Obligations.WrittenOutWordsDecode
  exact ⟨rfl, rfl, rfl, rfl, rfl, rfl⟩

end Sys2Proof
end

section
/-! PROOFS. The statements of spec/40_cpu_engine.md: the fetch at an instruction boundary, what a step executes, the pulses that execute
nothing, and the operand read. -/

namespace Sys2Proof.Machine

/-! ### The reads of a fetch -/

/-- A read of a write-only PPU register, at whichever of its mirrors, faults (R272). -/
theorem memRead_writeOnly {a : Addr} (h : 0x2000 ≤ a.toNat) (h' : a.toNat < 0x4000)
    (hoffset : a.toNat % 8 = 0 ∨ a.toNat % 8 = 1 ∨ a.toNat % 8 = 6) (s : State) :
    memRead a s = .stop { s with fault := some (.readWriteOnly a) } := by
  rw [memRead_ppu h h']
  rcases hoffset with hk | hk | hk <;> simp only [ppuRegRead, hk] <;> rfl

/-- A fetch whose opcode read faults ends in that read's state (R130). -/
theorem fetchInstr_of_opcode_stop {s v : State} (h : memRead s.pc s = .stop v) : fetchInstr s = .stop v := by
  rw [fetchInstr, fetchByte, h]
  rfl

section
variable {s v : State} {o : Byte} (h : memRead s.pc s = .ok o v)
include h

/-- An opcode read that delivers goes on to the operand bytes of the opcode's row, with PC past the opcode and the base count in the
counter (R121, R123). -/
theorem fetchInstr_of_opcode_ok :
    fetchInstr s = fetchOperands (opcodeRow o) ((v.setPc (s.pc + 1#16)).setCycles (opcodeRow o).base) := by
  rw [fetchInstr, fetchByte_eq, h]
  rfl

theorem fetchInstr_of_no_operand (hm : (opcodeRow o).mode.operandBytes = 0) :
    fetchInstr s = .ok ((opcodeRow o).build 0x00#8 0x00#8) ((v.setPc (s.pc + 1#16)).setCycles (opcodeRow o).base) := by
  rw [fetchInstr_of_opcode_ok h, fetchOperands_zero hm]

/-- The one operand byte: in the immediate mode PC is past it when it is read (R141). -/
theorem fetchInstr_of_one_operand (hm : (opcodeRow o).mode.operandBytes = 1) :
    let w := (v.setPc (s.pc + 1#16)).setCycles (opcodeRow o).base
    fetchInstr s =
      (memRead (s.pc + 1#16) (if (opcodeRow o).mode = .imm then w.setPc (s.pc + 2#16) else w)).andThen fun b t =>
        .ok ((opcodeRow o).build b 0x00#8) (t.setPc (s.pc + 2#16)) := by
  have hpc : s.pc + 2#16 = s.pc + 1#16 + 1#16 := (BitVec.add_assoc s.pc 1#16 1#16).symm
  rw [fetchInstr_of_opcode_ok h, fetchOperands_one hm, hpc]
  rfl

/-- The two operand bytes, the first read before the second (R128). -/
theorem fetchInstr_of_two_operands (hm : (opcodeRow o).mode.operandBytes = 2) :
    fetchInstr s =
      (memRead (s.pc + 1#16) ((v.setPc (s.pc + 1#16)).setCycles (opcodeRow o).base)).andThen fun b t =>
        (memRead (s.pc + 2#16) (t.setPc (s.pc + 2#16))).andThen fun c u =>
          .ok ((opcodeRow o).build b c) (u.setPc (s.pc + 3#16)) := by
  have hpc : s.pc + 2#16 = s.pc + 1#16 + 1#16 := (BitVec.add_assoc s.pc 1#16 1#16).symm
  have hpc' : s.pc + 3#16 = s.pc + 1#16 + 2#16 := (BitVec.add_assoc s.pc 1#16 2#16).symm
  rw [fetchInstr_of_opcode_ok h, fetchOperands_two hm, hpc, hpc']
  rfl

end

/-! ### The step at a boundary that fetches -/

section
variable {s : State} (h : (leadingPulses s).AtFetch)
include h

/-- A fetch that delivers is executed (R121). -/
theorem step_of_fetchInstr_ok {t : State} {i : Instr}
    (hf : fetchInstr ((leadingPulses s).setIrq (leadingPulses s).irq.next) = .ok i t) :
    step s = afterExec (exec i t) := by
  rw [step_atFetch h, show fetchInstr { leadingPulses s with irq := _ } = _ from hf]

/-- A fetch that a faulting Bus read ends leaves the state the read was made in, with the fault recorded (R130). -/
theorem step_of_fetchInstr_stop {t v : State} {a : Addr}
    (hf : fetchInstr ((leadingPulses s).setIrq (leadingPulses s).irq.next) = .stop v) (hr : memRead a t = .stop v) :
    v.fault.isSome = true ∧ step s = .next { t with fault := v.fault } := by
  obtain ⟨f, rfl⟩ := memRead_stop hr
  refine ⟨rfl, ?_⟩
  rw [step_atFetch h, show fetchInstr { leadingPulses s with irq := _ } = _ from hf]
  rfl

end

/-- Settles O6: the fetch is its Bus reads in order, and how the last of them ends decides what the step is. -/
theorem fetchesThroughTheBus : Obligations.FetchesThroughTheBus := by
  unfold Obligations.FetchesThroughTheBus
  intro s u r hfetch
  refine ⟨fun hlo hhi hoffset => ?writeOnly, fun hlo hhi => ?unmapped, ?reads⟩
  case writeOnly =>
    have hr := memRead_writeOnly hlo hhi hoffset r
    exact (step_of_fetchInstr_stop hfetch (fetchInstr_of_opcode_stop hr) hr).2
  case unmapped =>
    have hr := memRead_unmapped hlo hhi r
    exact step_of_fetchInstr_ok hfetch (fetchInstr_of_no_operand (s := r) hr rfl)
  case reads =>
    cases hr : memRead u.pc r with
    | stop v => exact step_of_fetchInstr_stop hfetch (fetchInstr_of_opcode_stop hr) hr
    | ok o v =>
      refine ⟨fun hm => ?none, fun hm => ?one, fun hm => ?two⟩
      case none => exact step_of_fetchInstr_ok hfetch (fetchInstr_of_no_operand (s := r) hr hm)
      case one =>
        have hf := fetchInstr_of_one_operand (s := r) hr hm
        intro x
        cases hb : memRead (u.pc + 1#16) x with
        | stop y => exact step_of_fetchInstr_stop hfetch (hf.trans (Bus.andThen_eq_stop.mpr (.inl hb))) hb
        | ok b y => exact step_of_fetchInstr_ok hfetch (hf.trans (Bus.andThen_eq_ok.mpr ⟨b, y, hb, rfl⟩))
      case two =>
        have hf := fetchInstr_of_two_operands (s := r) hr hm
        dsimp only
        split
        case h_1 y hl => exact step_of_fetchInstr_stop hfetch (hf.trans (Bus.andThen_eq_stop.mpr (.inl hl))) hl
        case h_2 l y hl =>
          split
          case h_1 q hh =>
            have hstop : fetchInstr r = .stop q :=
              hf.trans (Bus.andThen_eq_stop.mpr (.inr ⟨l, y, hl, Bus.andThen_eq_stop.mpr (.inl hh)⟩))
            exact step_of_fetchInstr_stop hfetch hstop hh
          case h_2 c q hh =>
            exact step_of_fetchInstr_ok hfetch
              (hf.trans (Bus.andThen_eq_ok.mpr ⟨l, y, hl, Bus.andThen_eq_ok.mpr ⟨c, q, hh, rfl⟩⟩))

/-! ### A step executes the decoded instruction -/

/-- Three bytes decode to what the row of the first builds from the other two: a byte its mode does not have is ignored (R100). -/
theorem build_of_decode_triple {o b c : Byte} {i : Instr} {rest : List Byte} (h : decode [o, b, c] = .ok (i, rest)) :
    (opcodeRow o).build b c = i := by
  obtain ⟨o', ops, hbytes, hlen, rfl⟩ := decode_eq_ok_iff.mp h
  obtain ⟨rfl, htail⟩ := List.cons.inj hbytes
  match ops with
  | [] => exact (build_ignores o b _ c _).1 hlen.symm
  | [b'] =>
    obtain ⟨rfl, -⟩ := List.cons.inj htail
    exact (build_ignores o b b c _).2 hlen.symm
  | [b', c'] =>
    cases htail
    rfl
  | _ :: _ :: _ :: _ => cases htail

/-- The instruction that a row builds has an opcode byte and the operand bytes of the row's mode (R100, R101). -/
theorem length_encode_build (o b c : Byte) :
    (encode ((opcodeRow o).build b c)).length = (opcodeRow o).mode.operandBytes + 1 := by
  rw [encode_build, List.length_cons, List.length_take]
  exact congrArg (· + 1) (Nat.min_eq_left (Mode.operandBytes_le _))

/-- The fetch of bytes in RAM or ROM that decode delivers their instruction, with PC past it and its base count in the counter
(R121, R129). -/
theorem fetchInstr_of_decode {s : State} {i : Instr} {rest : List Byte}
    (hd : decode [s.byteAt s.pc, s.byteAt (s.pc + 1#16), s.byteAt (s.pc + 2#16)] = .ok (i, rest))
    (hplain : ∀ k, k < (encode i).length → PlainAddr (s.pc + BitVec.ofNat 16 k)) :
    fetchInstr s = .ok i { s with pc := s.pc + BitVec.ofNat 16 (encode i).length, cycles := i.baseCycles } := by
  obtain rfl := build_of_decode_triple hd
  rw [length_encode_build] at hplain ⊢
  rw [baseCycles_build, fetchInstr_plain hplain]

/-- Settles O5: the fetch delivers the decoded instruction, and the step executes it. -/
theorem stepRunsDecodedInstruction : Obligations.StepRunsDecodedInstruction := by
  unfold Obligations.StepRunsDecodedInstruction
  intro s i rest u hfetch hd hplain
  exact step_of_fetchInstr_ok hfetch (fetchInstr_of_decode (s := u.setIrq u.irq.next) hd hplain)

/-! ### The pulses that execute nothing -/

/-- Settles O7: a running machine between boundaries. -/
theorem executingPulseOnlyCountsDown : Obligations.ExecutingPulseOnlyCountsDown := by
  unfold Obligations.ExecutingPulseOnlyCountsDown
  exact fun _ hrunning hcycles => cpuPulse_executing hrunning hcycles.ne'

theorem cpuPulse_of_fault {s : State} {f : Fault} (h : s.fault = some f) : cpuPulse s = .fault f := by
  rw [cpuPulse, h]

/-- Before the first reset the CPU pulse has no meaning (R302). -/
theorem cpuPulse_of_not_ready {s : State} (h : s.fault = none) (h' : s.cpuReady = false) :
    cpuPulse s = .refused .notReset := by
  rw [cpuPulse, h, h']
  rfl

/-- A step answers the fault that its CPU pulse answers. -/
theorem step_of_cpuPulse_fault {s : State} {f : Fault} (h : cpuPulse (leadingPulses s) = .fault f) :
    step s = .fault f := by
  rw [step, advance, h]

/-- A step is refused when its CPU pulse is. -/
theorem step_of_cpuPulse_refused {s : State} {q : Refusal} (h : cpuPulse (leadingPulses s) = .refused q) :
    step s = .refused q := by
  rw [step, advance, h]

/-- Settles O10: the PPU pulses before the CPU pulse leave the fault record and `cpu_ready`, which are what it goes by here. -/
theorem pulsesWithoutAStep : Obligations.PulsesWithoutAStep := by
  unfold Obligations.PulsesWithoutAStep
  intro s
  refine ⟨fun f hf => ?fault, fun hf hready => ?notReady⟩
  case fault =>
    have hlead : (leadingPulses s).fault = some f := leadingPulses_kept (P := (·.fault = some f)) (fun _ h => h) hf
    exact ⟨step_of_cpuPulse_fault (cpuPulse_of_fault hlead), cpuPulse_of_fault hf, ppuPulse_of_fault hf,
      hostReset_of_fault hf⟩
  case notReady =>
    obtain ⟨hlead, hlead'⟩ : (leadingPulses s).fault = none ∧ (leadingPulses s).cpuReady = false :=
      leadingPulses_kept (P := fun t => t.fault = none ∧ t.cpuReady = false) (fun _ h => h) ⟨hf, hready⟩
    exact ⟨cpuPulse_of_not_ready hf hready, step_of_cpuPulse_refused (cpuPulse_of_not_ready hlead hlead'),
      ppuPulse_of_none hf⟩

/-! ### The operand read -/

/-- Settles O36: a memory source is one Bus read, which at a plain address has no effect. -/
theorem operandFetch : Obligations.OperandFetch := by
  unfold Obligations.OperandFetch
  exact fun s _ _ => ⟨rfl, fun hplain => memRead_plain hplain s⟩

end Sys2Proof.Machine
end

section
/-! PROOFS. The statement of spec/41_addressing.md: the effective address and the page cross of each memory mode, in numbers. -/

namespace Sys2Proof.Machine

/-! ### The two sums -/

/-- Within page 0 an index wraps at 8 bits (R143, R144). -/
theorem zext16_add_toNat (z index : Byte) : (zext16 (z + index)).toNat = (z.toNat + index.toNat) % 256 := by
  rw [zext16_toNat, BitVec.toNat_add]

/-- On a 16-bit base an index wraps at 16 bits (R146, R147, R150). -/
theorem add_zext16_toNat (base : Addr) (index : Byte) :
    (base + zext16 index).toNat = (base.toNat + index.toNat) % 65536 := by
  rw [BitVec.toNat_add, zext16_toNat]

/-- The pointer at an unreduced address `k`: both of its bytes are read at addresses taken modulo 256 (R149, R150). -/
theorem zpPointer_toNat_of_mod (s : State) {z : Byte} {k : Nat} (hz : z.toNat = k % 256) :
    (zpPointer s z).toNat = (s.ramByte (k % 256)).toNat + 256 * (s.ramByte ((k + 1) % 256)).toNat := by
  rw [zpPointer_toNat, hz, Nat.mod_add_mod]
  rfl

/-! ### The page cross (R152) -/

/-- A mode that adds nothing to its base reports no page cross. -/
theorem MemOperand.crosses_of_ea_eq_base {m : MemOperand} {s : State} (h : m.ea s = m.base s) : m.crosses s = false := by
  rw [MemOperand.crosses, h, bne_self_eq_false]

/-- A mode that adds an index to its base reports a page cross exactly when the sum lies in another page than the base. -/
theorem MemOperand.crosses_iff_of_ea_eq_add {m : MemOperand} {s : State} {index : Byte} {base : Nat}
    (h : m.ea s = m.base s + zext16 index) (hbase : (m.base s).toNat = base) :
    m.crosses s = true ↔ (base + index.toNat) % 65536 / 256 ≠ base / 256 := by
  rw [MemOperand.crosses, hi8_bne_iff, h, add_zext16_toNat, hbase]

/-! ### The modes -/

/-- Settles O35: each mode's address is one of the two sums over its base or a pointer, and the page cross compares it with the base. -/
theorem effectiveAddresses : Obligations.EffectiveAddresses := by
  unfold Obligations.EffectiveAddresses
  intro s z addr ptr
  have hizx : (zpPointer s (z + s.x)).toNat = ptr (z.toNat + s.x.toNat) :=
    zpPointer_toNat_of_mod s (BitVec.toNat_add z s.x)
  have hizy : (zpPointer s z).toNat = ptr z.toNat := zpPointer_toNat_of_mod s (Nat.mod_eq_of_lt z.isLt).symm
  refine ⟨zext16_toNat z, zext16_add_toNat z s.x, zext16_add_toNat z s.y, rfl, add_zext16_toNat addr s.x,
    add_zext16_toNat addr s.y, hizx, ?izyAddress, ?noCross, MemOperand.crosses_iff_of_ea_eq_add rfl rfl,
    MemOperand.crosses_iff_of_ea_eq_add rfl rfl, MemOperand.crosses_iff_of_ea_eq_add rfl hizy⟩
  case izyAddress =>
    rw [← hizy]
    exact add_zext16_toNat (zpPointer s z) s.y
  case noCross =>
    intro m hm
    refine MemOperand.crosses_of_ea_eq_base ?_
    fin_cases hm <;> rfl

end Sys2Proof.Machine
end

section
/-! PROOFS. The statements of spec/42_load_store_transfer.md: what a reading instruction does from what its operation does, where a
store goes, and the transfers. -/

namespace Sys2Proof.Machine

/-! ### The reading forms (R131) -/

section
variable {i : Instr} {r : ReadRow} (h : readsAs i = some r) {s u : State}
include h

/-- A reading instruction whose operand read delivers applies its operation and counts the page cross (R121). -/
theorem exec_of_fetch_ok {v : Byte} (hf : r.src.fetch s = .ok v u) :
    exec i s = .next (addCross (r.src.crosses s) r.op.reportsCross (r.op.apply v u)) := by
  rw [exec_of_readsAs h, readForm, hf]
  rfl

/-- A reading instruction whose operand read faults ends in that read's state (R130). -/
theorem exec_of_fetch_stop (hf : r.src.fetch s = .stop u) : exec i s = .next u := by
  rw [exec_of_readsAs h, readForm, hf]
  rfl

end

/-- An effect that an operation has at whatever the counter becomes is the effect of every form of the operation: a form
adds to the operation its operand read and the page cross alone. -/
theorem ReadsWith.of_apply {op : ReadOp} {effect : Byte → State → State → Prop}
    (heffect : ∀ v u n, effect v u ((op.apply v u).setCycles n)) : ReadsWith op effect := by
  intro i ⟨op', src, opcode, base⟩ s hrow hop
  obtain rfl : op' = op := hop
  have hdelivers {v : Byte} {u : State} (hf : src.fetch s = .ok v u) : ∃ t, exec i s = .next t ∧ effect v u t ∧
      t.cycles = u.cycles + (if op'.reportsCross && src.crosses s then 1 else 0) := by
    refine ⟨_, exec_of_fetch_ok hrow hf, heffect v u _, ?_⟩
    rw [addCross, State.setCycles_cycles, ReadOp.apply_cycles, Bool.and_comm]
  refine ⟨.of_readsAs hrow, ?operand, ?completes⟩
  case operand =>
    dsimp only
    cases hf : src.fetch s with
    | ok v u => exact hdelivers hf
    | stop u => exact exec_of_fetch_stop hrow hf
  case completes =>
    cases src with
    | imm n => simpa [Source.crosses] using hdelivers (v := n) (u := s) rfl
    | mem m => exact fun hplain => hdelivers (memRead_plain hplain s)

/-- Settles O37: each operation writes its register, Z and N. -/
theorem loadsSetTheirRegister : Obligations.LoadsSetTheirRegister := by
  unfold Obligations.LoadsSetTheirRegister
  exact ⟨.of_apply fun _ _ _ => ⟨rfl, .setZN rfl, rfl⟩, .of_apply fun _ _ _ => ⟨rfl, .setZN rfl, rfl⟩,
    .of_apply fun _ _ _ => ⟨rfl, .setZN rfl, rfl⟩⟩

/-! ### The storing forms -/

/-- Outside RAM no byte depends on RAM. -/
theorem byteAt_setRam_of_not_ram (s : State) (m : Memory) {b : Addr} (hb : 0x2000 ≤ b.toNat) :
    (s.setRam m).byteAt b = s.byteAt b := by
  simp only [State.byteAt, if_neg (Nat.not_lt.mpr hb), State.setRam_cart]

/-- A Bus write to RAM as a read of any address sees it: the byte written at the mirrors of its address in RAM, and the byte
before everywhere else (R63). -/
theorem byteAt_after_ram_write {s : State} (hwf : s.ram.wf = true) (a : Addr) (v : Byte) (b : Addr) :
    (s.setRam (s.ram.write (ramIndex a) v)).byteAt b =
      if b.toNat < 0x2000 ∧ b.toNat % 0x800 = a.toNat % 0x800 then v else s.byteAt b := by
  by_cases hb : b.toNat < 0x2000
  · simp only [byteAt_setRam_write hwf v hb, hb, true_and]
  · rw [byteAt_setRam_of_not_ram s _ (by omega), if_neg fun h => hb h.1]

/-- Settles O38: a store is the Bus write of its register at the effective address, region by region. -/
theorem storesWriteTheirRegister : Obligations.StoresWriteTheirRegister := by
  unfold Obligations.StoresWriteTheirRegister
  intro i r s hrow
  refine ⟨.of_storesAs hrow, ?_⟩
  intro a v
  have hexec : exec i s = finish (memWrite a v s) := exec_of_storesAs hrow s
  refine ⟨fun ha hwf => ?ram, fun hlo hhi => ?ppu, fun hlo hhi => ?unmapped, fun ha => ?rom⟩
  case ram =>
    refine ⟨s.setRam (s.ram.write (ramIndex a) v), ?_, .one hwf rfl, byteAt_after_ram_write hwf a v, rfl⟩
    rw [hexec, memWrite_ram ha, finish_ok]
  case ppu => rw [hexec, memWrite_ppu hlo hhi]
  case unmapped =>
    rw [hexec, memWrite_unmapped hlo hhi]
    rfl
  case rom =>
    rw [hexec, memWrite_rom ha]
    rfl

/-! ### The transfers -/

/-- Settles O39: each transfer but TXS is the load of one register from another, which writes Z and N; TXS writes SP alone. -/
theorem transfersCopyARegister : Obligations.TransfersCopyARegister := by
  unfold Obligations.TransfersCopyARegister
  refine ⟨⟨.of_encode rfl rfl, .of_encode rfl rfl, .of_encode rfl rfl, .of_encode rfl rfl, .of_encode rfl rfl,
    .of_encode rfl rfl⟩, fun s => ⟨?tax, ?tay, ?tsx, ?txa, ?txs, ?tya⟩⟩
  case tax => exact ⟨loadX s.a s, rfl, rfl, .setZN rfl, rfl⟩
  case tay => exact ⟨loadY s.a s, rfl, rfl, .setZN rfl, rfl⟩
  case tsx => exact ⟨loadX s.sp s, rfl, rfl, .setZN rfl, rfl⟩
  case txa => exact ⟨loadA s.x s, rfl, rfl, .setZN rfl, rfl⟩
  case txs => rfl
  case tya => exact ⟨loadA s.y s, rfl, rfl, .setZN rfl, rfl⟩

end Sys2Proof.Machine
end

section
/-! PROOFS. The statements of spec/43_alu.md: the arithmetic of ADC and SBC in numbers, what the other reading operations of the ALU
leave, and the read-modify-write forms. -/

namespace Sys2Proof.Machine

/-! ### A byte in numbers -/

/-- Bit 7, the sign bit. -/
theorem getLsbD_seven (v : Byte) : v.getLsbD 7 = decide (128 ≤ v.toNat) :=
  (BitVec.msb_eq_getLsbD_last v).symm.trans (BitVec.msb_eq_decide v)

theorem beq_zero_eq_decide (v : Byte) : (v == 0x00#8) = decide (v.toNat = 0) := by
  rw [beq_eq_decide, decide_eq_decide, ← BitVec.toNat_inj]
  rfl

/-- The signed value of a byte, by its sign. -/
theorem toInt_eq_or (v : Byte) :
    (v.toNat < 128 ∧ v.toInt = v.toNat) ∨ (128 ≤ v.toNat ∧ v.toInt = (v.toNat : Int) - 256) := by
  rw [BitVec.toInt_eq_toNat_cond]
  split <;> omega

/-- The one's complement that SBC adds (R181). -/
theorem toNat_xor_FF (v : Byte) : (v ^^^ 0xFF#8).toNat = 255 - v.toNat := by
  rw [show 0xFF#8 = BitVec.allOnes 8 from rfl, BitVec.xor_allOnes, BitVec.toNat_not]

theorem toInt_xor_FF (v : Byte) : (v ^^^ 0xFF#8).toInt = -1 - v.toInt := by
  have hcomplement := toInt_eq_or (v ^^^ 0xFF#8)
  have hv := toInt_eq_or v
  rw [toNat_xor_FF] at hcomplement
  omega

/-! ### The sum of ADC and SBC (R180, R181) -/

/-- The sum of ADC over the signed values of its operands (R195). -/
def signedSum (a m : Byte) (c : Bool) : Int := a.toInt + m.toInt + (if c then 1 else 0)

theorem adcResult_toNat (a m : Byte) (c : Bool) : (adcResult a m c).toNat = adcSum a m c % 256 := BitVec.toNat_ofNat ..

/-- V is the sign bit of its formula. -/
theorem adcOverflow_eq_getLsbD (a m r : Byte) : adcOverflow a m r = ((~~~(a ^^^ m)) &&& (a ^^^ r)).getLsbD 7 := by
  rw [adcOverflow, show 0x80#8 = BitVec.twoPow 8 7 from rfl, BitVec.and_twoPow]
  cases ((~~~(a ^^^ m)) &&& (a ^^^ r)).getLsbD 7 <;> rfl

/-- The formula compares sign bits: the operands have one sign and the result has the other. -/
theorem adcOverflow_eq_true_iff (a m r : Byte) : adcOverflow a m r = true ↔
    (128 ≤ a.toNat ↔ 128 ≤ m.toNat) ∧ ¬(128 ≤ a.toNat ↔ 128 ≤ r.toNat) := by
  rw [adcOverflow_eq_getLsbD, BitVec.getLsbD_and, BitVec.getLsbD_not, BitVec.getLsbD_xor, BitVec.getLsbD_xor,
    getLsbD_seven, getLsbD_seven, getLsbD_seven]
  simp

/-- The sign-bit-XOR formula of a sum is signed overflow (R195). -/
theorem adcOverflow_eq_signed (a m : Byte) (c : Bool) :
    adcOverflow a m (adcResult a m c) = decide (signedSum a m c < -128 ∨ 127 < signedSum a m c) := by
  have ha := toInt_eq_or a
  have hm := toInt_eq_or m
  rw [Bool.eq_iff_iff, adcOverflow_eq_true_iff, decide_eq_true_iff, adcResult_toNat, adcSum, signedSum]
  cases c <;> simp only [carryIn, if_true, Bool.false_eq_true, if_false] <;> omega

/-- Adding the complement and the carry is subtracting the operand and the borrow, up to 256 (R181). -/
theorem adcSum_complement (a m : Byte) (c : Bool) :
    (adcSum a (m ^^^ 0xFF#8) c : Int) = (a.toNat : Int) - m.toNat - (if c then 0 else 1) + 256 := by
  have := m.isLt
  rw [adcSum, toNat_xor_FF]
  cases c <;> simp only [carryIn, if_true, Bool.false_eq_true, if_false] <;> omega

theorem signedSum_complement (a m : Byte) (c : Bool) :
    signedSum a (m ^^^ 0xFF#8) c = a.toInt - m.toInt - (if c then 0 else 1) := by
  rw [signedSum, toInt_xor_FF]
  cases c <;> simp only [if_true, Bool.false_eq_true, if_false] <;> omega

/-! ### What the flag computations leave, in numbers -/

/-- Z and N of a result (R127). -/
theorem FlagsBecome.setZN_toNat {s t : State} {r : Byte} (h : t.p = Machine.setZN r s.p) :
    FlagsBecome s t [(.z, decide (r.toNat = 0)), (.n, decide (128 ≤ r.toNat))] := by
  rw [← beq_zero_eq_decide, ← getLsbD_seven]
  exact .setZN h

/-- C, V, Z and N of an addition (R180), with V as signed overflow (R195). -/
theorem FlagsBecome.adcFlags {s t : State} {a m : Byte} (h : t.p = Machine.adcFlags a m s.p) :
    FlagsBecome s t [(.c, decide (255 < adcSum a m (s.flag .c))),
      (.v, decide (signedSum a m (s.flag .c) < -128 ∨ 127 < signedSum a m (s.flag .c))),
      (.z, decide (adcSum a m (s.flag .c) % 256 = 0)), (.n, decide (128 ≤ adcSum a m (s.flag .c) % 256))] := by
  rw [← adcOverflow_eq_signed, ← adcResult_toNat, ← beq_zero_eq_decide, ← getLsbD_seven]
  refine .of_p fun f => ?_
  rw [h, getFlag_adcFlags]
  cases f <;> rfl

/-- Z, N and V of BIT (R185). -/
theorem FlagsBecome.bitFlags {s t : State} {a m : Byte} (h : t.p = Machine.bitFlags a m s.p) :
    FlagsBecome s t [(.z, decide (a &&& m = 0x00#8)), (.n, m.getLsbD 7), (.v, m.getLsbD 6)] := by
  rw [← beq_eq_decide]
  refine .of_p fun f => ?_
  rw [h, getFlag_bitFlags]
  cases f <;> rfl

/-- C, Z and N of a compare (R186). -/
theorem FlagsBecome.compareFlags {s t : State} {r m : Byte} (h : t.p = Machine.compareFlags r m s.p) :
    FlagsBecome s t [(.c, decide (m.toNat ≤ r.toNat)), (.z, decide (r = m)),
      (.n, decide (128 ≤ (r.toNat + 256 - m.toNat) % 256))] := by
  have hm := m.isLt
  have hz : decide (r = m) = (r - m == 0x00#8) := by
    rw [beq_eq_decide, decide_eq_decide]
    exact sub_eq_zero.symm
  have hn : decide (128 ≤ (r.toNat + 256 - m.toNat) % 256) = (r - m).getLsbD 7 := by
    rw [getLsbD_seven, BitVec.toNat_sub, Nat.add_comm, Nat.sub_add_comm hm.le]
  rw [hz, hn]
  refine .of_p fun f => ?_
  rw [h, getFlag_compareFlags]
  cases f <;> rfl

/-! ### ADC and SBC -/

/-- Settles O40: the sum is taken modulo 256, its flags are those of an addition, and D enters none of them. -/
theorem adcAddsWithCarry : Obligations.AdcAddsWithCarry := by
  unfold Obligations.AdcAddsWithCarry
  refine .of_apply fun v u n => ⟨adcResult_toNat u.a v (u.flag .c), .adcFlags rfl, ?formula, rfl⟩
  exact (getFlag_adcFlags u.a v u.p .v).trans (adcOverflow_eq_getLsbD ..)

/-- Settles O41: SBC is ADC of the complement, whose sum is the difference plus 256 and whose signed sum is the signed difference. -/
theorem sbcSubtractsWithBorrow : Obligations.SbcSubtractsWithBorrow := by
  unfold Obligations.SbcSubtractsWithBorrow
  refine .of_apply fun v u n => ?_
  intro borrow diff signed
  have hresult := adcResult_toNat u.a (v ^^^ 0xFF#8) (u.flag .c)
  have hflags : FlagsBecome u ((subtractFromA v u).setCycles n) _ := .adcFlags rfl
  have hsum : (adcSum u.a (v ^^^ 0xFF#8) (u.flag .c) : Int) = diff + 256 := adcSum_complement ..
  have hsigned : signedSum u.a (v ^^^ 0xFF#8) (u.flag .c) = signed := signedSum_complement ..
  generalize adcSum u.a (v ^^^ 0xFF#8) (u.flag .c) = sum at hresult hflags hsum
  have hc : 255 < sum ↔ 0 ≤ diff := by omega
  have hz : sum % 256 = 0 ↔ diff % 256 = 0 := by omega
  have hn : 128 ≤ sum % 256 ↔ 128 ≤ diff % 256 := by omega
  rw [hsigned, decide_eq_decide.mpr hc, decide_eq_decide.mpr hz, decide_eq_decide.mpr hn] at hflags
  have hdifference : ((adcResult u.a (v ^^^ 0xFF#8) (u.flag .c)).toNat : Int) = diff % 256 := by omega
  exact ⟨hdifference, hflags, (getFlag_adcFlags u.a _ u.p .v).trans (adcOverflow_eq_getLsbD ..), rfl⟩

/-! ### The logic operations, BIT and the compares -/

/-- Settles O42: each operation loads A with the bitwise combination. -/
theorem logicCombinesBitwise : Obligations.LogicCombinesBitwise := by
  unfold Obligations.LogicCombinesBitwise
  intro row hrow
  fin_cases hrow
  · exact .of_apply fun _ _ _ => ⟨fun _ _ => BitVec.getLsbD_and, .setZN_toNat rfl, rfl⟩
  · exact .of_apply fun _ _ _ => ⟨fun _ _ => BitVec.getLsbD_or, .setZN_toNat rfl, rfl⟩
  · exact .of_apply fun _ _ _ => ⟨fun _ _ => BitVec.getLsbD_xor, .setZN_toNat rfl, rfl⟩

/-- Settles O43: BIT writes P alone. -/
theorem bitTestsTheOperand : Obligations.BitTestsTheOperand := by
  unfold Obligations.BitTestsTheOperand
  exact .of_apply fun _ _ _ => ⟨.bitFlags rfl, rfl⟩

/-- Settles O44: each compare writes P alone, from its own register. -/
theorem comparesSetCarryZeroNegative : Obligations.ComparesSetCarryZeroNegative := by
  unfold Obligations.ComparesSetCarryZeroNegative
  intro row hrow
  fin_cases hrow <;> exact .of_apply fun _ _ _ => ⟨.compareFlags rfl, rfl⟩

/-! ### The read-modify-write forms -/

/-- What an operation writes back and how it sets P say what every form of it does: a form adds to the operation its accesses
alone. -/
theorem ModifiesWith.of_result {op : ModifyOp} {result : Bool → Byte → Byte} {flags : Byte → Byte → List (Flag × Bool)}
    (hresult : ∀ c m, op.result c m = result c m)
    (hflags : ∀ c m (s t : State), t.p = op.status m (result c m) s.p → FlagsBecome s t (flags m (result c m))) :
    ModifiesWith op result flags := by
  intro i ⟨op', target, opcode, base⟩ s hrow hop
  obtain rfl : op' = op := hop
  have hexec := exec_of_modifiesAs hrow s
  refine ⟨.of_modifiesAs hrow, ?_⟩
  cases target with
  | acc =>
    simp only [modifyForm, hresult] at hexec
    exact ⟨_, hexec, rfl, hflags _ _ _ _ rfl, rfl⟩
  | mem m =>
    simp only [modifyForm, hresult] at hexec
    refine ⟨?accesses, fun hram hwf => ?ram⟩
    case accesses =>
      cases hread : memRead (m.ea s) s with
      | stop u => rw [hexec, hread]; rfl
      | ok v u =>
        rw [hread, Bus.ok_andThen] at hexec
        dsimp only
        cases hwrite : memWrite (m.ea s) (result (s.flag .c) v) u with
        | stop w =>
          rw [hwrite] at hexec
          exact hexec
        | ok _ w =>
          rw [hwrite] at hexec
          exact ⟨_, hexec, hflags _ _ _ _ rfl, rfl⟩
    case ram =>
      rw [memRead_plain (.inl hram), Bus.ok_andThen, memWrite_ram hram] at hexec
      exact ⟨_, hexec, ⟨.one hwf rfl, hflags _ _ _ _ rfl⟩, rfl⟩

/-! ### The steps by one -/

theorem incByte_eq_ofNat (v : Byte) : incByte v = BitVec.ofNat 8 (v.toNat + 1) := by
  rw [incByte, BitVec.ofNat_add, BitVec.ofNat_toNat, BitVec.setWidth_eq]

theorem decByte_eq_ofNat (v : Byte) : decByte v = BitVec.ofNat 8 (v.toNat + 255) := by
  rw [decByte, BitVec.ofNat_add, BitVec.ofNat_toNat, BitVec.setWidth_eq, BitVec.sub_eq_add_neg]
  rfl

theorem incByte_toNat (v : Byte) : (incByte v).toNat = (v.toNat + 1) % 256 := by
  rw [incByte_eq_ofNat, BitVec.toNat_ofNat]

theorem decByte_toNat (v : Byte) : (decByte v).toNat = (v.toNat + 255) % 256 := by
  rw [decByte_eq_ofNat, BitVec.toNat_ofNat]

/-- Settles O45: the two operations write back the byte stepped by one and set Z and N from it. -/
theorem incAndDecModifyMemory : Obligations.IncAndDecModifyMemory := by
  unfold Obligations.IncAndDecModifyMemory
  exact ⟨.of_result (fun _ => incByte_eq_ofNat) fun _ _ _ _ => .setZN,
    .of_result (fun _ => decByte_eq_ofNat) fun _ _ _ _ => .setZN⟩

/-- Settles O46: each of the four loads its register with its own value stepped by one. -/
theorem registerStepsWrap : Obligations.RegisterStepsWrap := by
  unfold Obligations.RegisterStepsWrap
  refine ⟨⟨.of_encode rfl rfl, .of_encode rfl rfl, .of_encode rfl rfl, .of_encode rfl rfl⟩, fun s => ⟨?inx, ?iny, ?dex, ?dey⟩⟩
  case inx => exact ⟨loadX (incByte s.x) s, rfl, incByte_toNat s.x, .setZN rfl, rfl⟩
  case iny => exact ⟨loadY (incByte s.y) s, rfl, incByte_toNat s.y, .setZN rfl, rfl⟩
  case dex => exact ⟨loadX (decByte s.x) s, rfl, decByte_toNat s.x, .setZN rfl, rfl⟩
  case dey => exact ⟨loadY (decByte s.y) s, rfl, decByte_toNat s.y, .setZN rfl, rfl⟩

end Sys2Proof.Machine
end

section
/-! PROOFS. The statement of spec/44_shift_rotate.md: the results of the shifts and rotates in numbers, and what the two flag
computations leave. -/

namespace Sys2Proof.Machine

/-! ### The results in numbers -/

theorem aslResult_eq_ofNat (m : Byte) : aslResult m = BitVec.ofNat 8 (2 * m.toNat) := by
  rw [mul_comm, ← pow_one 2, ← Nat.shiftLeft_eq]
  rfl

theorem lsrResult_toNat (m : Byte) : (lsrResult m).toNat = m.toNat / 2 := BitVec.toNat_ushiftRight m 1

theorem lsrResult_eq_ofNat (m : Byte) : lsrResult m = BitVec.ofNat 8 (m.toNat / 2) := by
  rw [← lsrResult_toNat, BitVec.ofNat_toNat, BitVec.setWidth_eq]

/-- The carry enters at bit 0, which the doubling leaves clear, so that OR is addition. -/
theorem rolResult_eq_ofNat (c : Bool) (m : Byte) :
    rolResult c m = BitVec.ofNat 8 (2 * m.toNat + if c then 1 else 0) := by
  have hcarry : (if c then 1 else 0) < 2 ^ 1 := by cases c <;> decide
  have hor := Nat.two_pow_add_eq_or_of_lt hcarry m.toNat
  rw [pow_one] at hor
  rw [hor, BitVec.ofNat_or, ← aslResult_eq_ofNat]
  cases c <;> rfl

/-- The carry enters at bit 7, which the halving leaves clear, so that OR is addition. -/
theorem rorResult_eq_ofNat (c : Bool) (m : Byte) :
    rorResult c m = BitVec.ofNat 8 (m.toNat / 2 + if c then 128 else 0) := by
  have hhalf : m.toNat / 2 < 2 ^ 7 := by have := m.isLt; omega
  have hor := Nat.two_pow_add_eq_or_of_lt hhalf c.toNat
  have hcarry : (if c then 128 else 0) = 2 ^ 7 * c.toNat := by cases c <;> rfl
  rw [hcarry, Nat.add_comm, hor, BitVec.ofNat_or, ← lsrResult_eq_ofNat]
  cases c <;> rfl

/-! ### The flags -/

/-- Bit 0, the carry of a right shift. -/
theorem getLsbD_zero_eq_decide (v : Byte) : v.getLsbD 0 = decide (v.toNat % 2 = 1) := Nat.testBit_zero v.toNat

/-- Bit 7 of a halved byte is clear. -/
theorem getLsbD_seven_half (m : Byte) : (BitVec.ofNat 8 (m.toNat / 2)).getLsbD 7 = false := by
  have := m.isLt
  rw [← lsrResult_eq_ofNat, getLsbD_seven, lsrResult_toNat, decide_eq_false_iff_not]
  omega

/-- C, Z and N of ASL or ROL (R210, R212). -/
theorem FlagsBecome.leftFlags {s t : State} {m r : Byte} (h : t.p = Machine.leftFlags m r s.p) :
    FlagsBecome s t [(.c, decide (128 ≤ m.toNat)), (.z, r == 0x00#8), (.n, r.getLsbD 7)] := by
  rw [← getLsbD_seven]
  refine .of_p fun f => ?_
  rw [h, getFlag_leftFlags]
  cases f <;> rfl

/-- C, Z and N of LSR or ROR (R211, R213). -/
theorem FlagsBecome.rightFlags {s t : State} {m r : Byte} (h : t.p = Machine.rightFlags m r s.p) :
    FlagsBecome s t [(.c, decide (m.toNat % 2 = 1)), (.z, r == 0x00#8), (.n, r.getLsbD 7)] := by
  rw [← getLsbD_zero_eq_decide]
  refine .of_p fun f => ?_
  rw [h, getFlag_rightFlags]
  cases f <;> rfl

/-- Settles O47: each operation writes back its result in numbers, and C is the bit shifted out; N of LSR is the bit that the
halving clears. -/
theorem shiftsAndRotates : Obligations.ShiftsAndRotates := by
  unfold Obligations.ShiftsAndRotates
  refine ⟨?asl, ?rol, ?lsr, ?ror⟩
  case asl => exact .of_result (fun _ => aslResult_eq_ofNat) fun _ _ _ _ => .leftFlags
  case rol => exact .of_result rolResult_eq_ofNat fun _ _ _ _ => .leftFlags
  case lsr =>
    refine .of_result (fun _ => lsrResult_eq_ofNat) fun _ m _ _ h => ?_
    rw [← getLsbD_seven_half m]
    exact .rightFlags h
  case ror => exact .of_result rorResult_eq_ofNat fun _ _ _ _ => .rightFlags

end Sys2Proof.Machine
end

section
/-! PROOFS. The statements of spec/45_branch_jump.md: the branch target in numbers, where JMP indirect reads its high byte, and what
JSR leaves on the stack for RTS. -/

namespace Sys2Proof.Machine

/-! ### The branches -/

/-- The target of a branch is PC plus the signed offset, wrapped at 16 bits (R151, R220). -/
theorem add_sext16_eq_ofInt (pc : Addr) (r : Byte) : pc + sext16 r = BitVec.ofInt 16 (pc.toNat + r.toInt) := by
  rw [BitVec.ofInt_add, BitVec.ofInt_natCast, BitVec.ofNat_toNat, BitVec.setWidth_eq]
  rfl

/-- A branch whose condition holds goes to its target, at one cycle more and a further one across a page (R220). -/
theorem branchForm_true (r : Byte) (s : State) :
    let target := BitVec.ofInt 16 (s.pc.toNat + r.toInt)
    branchForm true r s = .next { s with
      pc := target, cycles := s.cycles + 1 + (if target.toNat / 256 ≠ s.pc.toNat / 256 then 1 else 0) } := by
  intro target
  have htarget : s.pc + sext16 r = target := add_sext16_eq_ofInt s.pc r
  rw [branchForm, if_pos rfl, htarget]
  simp only [hi8_bne_iff]
  split <;> rfl

/-- Settles O48: every branch is `branchForm` of its row's condition, which holds exactly when the flag has its value. -/
theorem branchesFollowTheirFlag : Obligations.BranchesFollowTheirFlag := by
  unfold Obligations.BranchesFollowTheirFlag
  intro i r s hrow
  refine ⟨.of_branchesAs hrow, fun htaken => ?taken, fun hnot => ?notTaken⟩
  case taken => rw [exec_of_branchesAs hrow, beq_iff_eq.mpr htaken, branchForm_true]
  case notTaken =>
    rw [exec_of_branchesAs hrow, beq_eq_false_iff_ne.mpr hnot]
    rfl

/-! ### The jumps -/

/-- The start of an address's page. -/
theorem toNat_and_FF00 (a : Addr) : (a &&& 0xFF00#16).toNat = a.toNat / 256 * 256 := by
  have hmask : a &&& 0xFF00#16 = (a >>> 8) <<< 8 := by
    rw [BitVec.shiftLeft_ushiftRight]
    rfl
  have := a.isLt
  simp only [hmask, BitVec.toNat_shiftLeft, BitVec.toNat_ushiftRight, Nat.shiftLeft_eq, Nat.shiftRight_eq_div_pow]
  omega

/-- JMP indirect reads its high byte at the next address, or at the start of the page behind the last one (R148). -/
theorem indirectHigh_eq (ptr : Addr) : indirectHigh ptr =
    if ptr.toNat % 256 = 255 then BitVec.ofNat 16 (ptr.toNat - 255) else ptr + 1#16 := by
  have hlast : lo8 ptr = 0xFF#8 ↔ ptr.toNat % 256 = 255 := by
    rw [← BitVec.toNat_inj, lo8_toNat]
    rfl
  rw [indirectHigh]
  simp only [hlast]
  split
  case isTrue h =>
    have := ptr.isLt
    apply BitVec.eq_of_toNat_eq
    rw [toNat_and_FF00, BitVec.toNat_ofNat]
    omega
  case isFalse => rfl

theorem Bus.andThen_assoc {α β γ : Type} (r : Bus α) (f : α → State → Bus β) (g : β → State → Bus γ) :
    (r.andThen f).andThen g = r.andThen fun v t => (f v t).andThen g := by
  cases r <;> rfl

/-- The two pointer reads of JMP indirect, low byte first, and the jump that they end in when both deliver (R148, R229). -/
theorem exec_jmpInd (ptr : Addr) (s : State) : exec (.jmpInd ptr) s =
    finish ((memRead ptr s).andThen fun lo t =>
      (memRead (indirectHigh ptr) t).andThen fun hi u => .ok () (u.setPc (hiLo hi lo))) := by
  change finish ((indirectTarget ptr s).andThen fun target t => .ok () (t.setPc target)) = _
  simp only [indirectTarget, Bus.andThen_assoc, Bus.ok_andThen]

/-- Settles O49: JMP indirect case by case in its two pointer reads, which deliver at plain addresses. -/
theorem jumpsSetPc : Obligations.JumpsSetPc := by
  unfold Obligations.JumpsSetPc
  refine ⟨.of_encode rfl rfl, .of_encode rfl rfl, fun s addr ptr => ?_⟩
  intro second
  have hexec := exec_jmpInd ptr s
  rw [show indirectHigh ptr = second from indirectHigh_eq ptr] at hexec
  refine ⟨rfl, ?reads, fun hptr hsecond => ?plain⟩
  case reads =>
    cases hlow : memRead ptr s with
    | stop u => rw [hexec, hlow]; rfl
    | ok lo u =>
      rw [hlow, Bus.ok_andThen] at hexec
      dsimp only
      cases hhigh : memRead second u with
      | stop w => rw [hexec, hhigh]; rfl
      | ok hi w => rw [hexec, hhigh]; rfl
  case plain =>
    rw [hexec, memRead_plain hptr, Bus.ok_andThen, memRead_plain hsecond]
    rfl

/-! ### The subroutines -/

/-- The byte below the top of the stack is another one, also where SP wraps. -/
theorem stackIndex_sub_one_ne (sp : Byte) : stackIndex (sp - 1#8) ≠ stackIndex sp := by
  rw [Ne, stackIndex_inj]
  bv_omega

/-- A stored byte reads as stored. -/
theorem RamBecomes.ramByte_of_lookup {s t : State} {w : List (Nat × Byte)} {k : Nat} {v : Byte} (h : RamBecomes s t w)
    (hk : w.lookup k = some v) : t.ramByte k = v := by
  rw [h k, hk, Option.getD_some]

/-- JSR over the push of its return address (R230). -/
theorem exec_jsr (addr : Addr) (s : State) : exec (.jsr addr) s = .next { s with
    ram := (s.ram.write (stackIndex s.sp) (hi8 (s.pc - 1#16))).write (stackIndex (s.sp - 1#8)) (lo8 (s.pc - 1#16))
    sp := s.sp - 2#8
    pc := addr } := by
  change finish ((pushAddr (s.pc - 1#16) s).andThen fun _ t => .ok () (t.setPc addr)) = _
  rw [pushAddr_eq, sp_sub_two]
  rfl

/-- Settles O50: the pushes go to two different bytes of the stack. -/
theorem jsrPushesItsLastByteAddress : Obligations.JsrPushesItsLastByteAddress := by
  unfold Obligations.JsrPushesItsLastByteAddress
  refine ⟨.of_encode rfl rfl, fun s addr hwf => ?_⟩
  exact ⟨_, exec_jsr addr s, .two hwf (stackIndex_sub_one_ne s.sp).symm rfl, rfl⟩

/-- RTS over the two stack bytes that it pulls (R231). -/
theorem exec_rts (s : State) : exec .rts s = .next { s with
    sp := s.sp + 2#8
    pc := hiLo (s.ramByte (stackIndex (s.sp + 2#8))) (s.ramByte (stackIndex (s.sp + 1#8))) + 1#16 } := by
  change finish ((pullAddr s).andThen fun ret t => .ok () (t.setPc (ret + 1#16))) = _
  rw [pullAddr_eq, sp_add_two]
  rfl

theorem hiLo_add_one_eq_ofNat (hi lo : Byte) : hiLo hi lo + 1#16 = BitVec.ofNat 16 (lo.toNat + 256 * hi.toNat + 1) := by
  rw [BitVec.ofNat_add]
  congr 1
  apply BitVec.eq_of_toNat_eq
  have := hi.isLt
  have := lo.isLt
  rw [hiLo_toNat, BitVec.toNat_ofNat]
  omega

/-- Settles O51: the pulled bytes in numbers. -/
theorem rtsPullsAndAddsOne : Obligations.RtsPullsAndAddsOne := by
  unfold Obligations.RtsPullsAndAddsOne
  refine ⟨.of_encode rfl rfl, fun s => ?_⟩
  rw [exec_rts, hiLo_add_one_eq_ofNat]

/-- Settles O52: RTS pulls the two bytes that JSR pushed, whose value is the address before PC. -/
theorem rtsReturnsFromJsr : Obligations.RtsReturnsFromJsr := by
  unfold Obligations.RtsReturnsFromJsr
  intro s t addr hwf hjsr
  obtain ⟨-, hjsrPushes⟩ := jsrPushesItsLastByteAddress
  obtain ⟨u, hu, hram, hframe⟩ := hjsrPushes s addr hwf
  obtain rfl : t = u := Host.Outcome.next.inj (hjsr.symm.trans hu)
  have hsp : t.sp = s.sp - 2#8 := by rw [hframe]
  have hhigh : t.ramByte (stackIndex (t.sp + 2#8)) = hi8 (s.pc - 1#16) := by
    rw [hsp, BitVec.sub_add_cancel]
    exact hram.ramByte_of_lookup List.lookup_cons_self
  have hlow : t.ramByte (stackIndex (t.sp + 1#8)) = lo8 (s.pc - 1#16) := by
    rw [hsp, show s.sp - 2#8 + 1#8 = s.sp - 1#8 by bv_omega]
    refine hram.ramByte_of_lookup ?_
    rw [lookup_cons_if, if_neg (stackIndex_sub_one_ne s.sp), List.lookup_cons_self]
  rw [exec_rts, hhigh, hlow, hiLo_hi8_lo8, BitVec.sub_add_cancel, hsp, BitVec.sub_add_cancel]

end Sys2Proof.Machine
end

section
/-! PROOFS. The statements of spec/46_stack_status_system.md: the pushes and pulls of one byte, the flag instructions, BRK and RTI. -/

namespace Sys2Proof.Machine

/-! ### The pushes and pulls of one byte -/

/-- PHA over its push (R240). -/
theorem exec_pha (s : State) : exec .pha s = .next { s with ram := s.ram.write (stackIndex s.sp) s.a, sp := s.sp - 1#8 } := by
  change finish (push s.a s) = _
  rw [push_eq]
  rfl

/-- PHP over its push (R241). -/
theorem exec_php (s : State) : exec .php s = .next { s with
    ram := s.ram.write (stackIndex s.sp) (pushedByProgram s.p), sp := s.sp - 1#8 } := by
  change finish (push (pushedByProgram s.p) s) = _
  rw [push_eq]
  rfl

/-- Settles O53: each is one push, PHP's of P with B and U set. -/
theorem pushesWriteOneStackByte : Obligations.PushesWriteOneStackByte := by
  unfold Obligations.PushesWriteOneStackByte
  refine ⟨.of_encode rfl rfl, .of_encode rfl rfl, fun s hwf => ⟨?pha, ?php⟩⟩
  case pha => exact ⟨_, exec_pha s, .one hwf rfl, rfl⟩
  case php => exact ⟨_, pushedByProgram s.p, exec_php s, getFlag_pushedByProgram s.p, .one hwf rfl, rfl⟩

/-- PLA is the load of the pulled byte (R242). -/
theorem exec_pla (s : State) :
    exec .pla s = .next (loadA (s.ramByte (stackIndex (s.sp + 1#8))) (s.setSp (s.sp + 1#8))) := by
  change finish ((pull s).andThen fun v t => .ok () (loadA v t)) = _
  rw [pull_eq]
  rfl

/-- PLP over its pull (R243). -/
theorem exec_plp (s : State) : exec .plp s = .next { s with
    p := pulledStatus (s.ramByte (stackIndex (s.sp + 1#8))), sp := s.sp + 1#8 } := by
  change finish ((pull s).andThen fun v t => .ok () (t.setP (pulledStatus v))) = _
  rw [pull_eq]
  rfl

/-- Settles O54: PLA writes Z and N as a load does, and PLP makes P of the pulled byte. -/
theorem pullsReadOneStackByte : Obligations.PullsReadOneStackByte := by
  unfold Obligations.PullsReadOneStackByte
  refine ⟨.of_encode rfl rfl, .of_encode rfl rfl, fun s => ⟨?pla, ?plp⟩⟩
  case pla => exact ⟨_, exec_pla s, rfl, .setZN rfl, rfl⟩
  case plp => exact ⟨_, exec_plp s, getFlag_pulledStatus _, rfl⟩

/-! ### The flag instructions -/

/-- The write of one flag. -/
theorem FlagsBecome.putFlag {s t : State} {f : Flag} {on : Bool} (h : t.p = Machine.putFlag s.p f on) :
    FlagsBecome s t [(f, on)] := by
  intro g
  rw [State.flag_def, State.flag_def, h, getFlag_putFlag, lookup_cons_if]
  split <;> rfl

/-- An instruction of 2 base cycles that is the write of one flag changes that flag and nothing else. -/
theorem writesOneFlag_of_exec_putFlag {i : Instr} {o : Byte} {rest : List Byte} {f : Flag} {on : Bool}
    (hencode : encode i = o :: rest) (hbase : (opcodeRow o).base = 2) (hexec : ∀ s, exec i s = .next (s.putFlag f on)) :
    HasRow i o 2 ∧ ∀ s : State, ∃ t, exec i s = .next t ∧ FlagsBecome s t [(f, on)] ∧ t = { s with p := t.p } :=
  ⟨.of_encode hencode hbase, fun s => ⟨_, hexec s, .putFlag rfl, rfl⟩⟩

/-- Settles O55: the seven flag instructions one by one, each the write of its flag. -/
theorem flagInstructionsWriteOneFlag : Obligations.FlagInstructionsWriteOneFlag := by
  unfold Obligations.FlagInstructionsWriteOneFlag
  refine ⟨?flags, .of_encode rfl rfl, fun s => rfl⟩
  simp only [List.forall_mem_cons]
  refine ⟨?clc, ?cld, ?cli, ?clv, ?sec, ?sed, ?sei, List.forall_mem_nil _⟩
  case clc => exact writesOneFlag_of_exec_putFlag rfl rfl fun _ => rfl
  case cld => exact writesOneFlag_of_exec_putFlag rfl rfl fun _ => rfl
  case cli => exact writesOneFlag_of_exec_putFlag rfl rfl fun _ => rfl
  case clv => exact writesOneFlag_of_exec_putFlag rfl rfl fun _ => rfl
  case sec => exact writesOneFlag_of_exec_putFlag rfl rfl fun _ => rfl
  case sed => exact writesOneFlag_of_exec_putFlag rfl rfl fun _ => rfl
  case sei => exact writesOneFlag_of_exec_putFlag rfl rfl fun _ => rfl

/-! ### BRK and RTI -/

/-- The target of a vector in ROM, by its two bytes (R71). -/
theorem vectorTarget_eq_byteAt {vec : Addr} (h : 0x8000 ≤ vec.toNat) (h' : 0x8000 ≤ (vec + 1#16).toNat) (s : State) :
    s.cart.vectorTarget vec = hiLo (s.byteAt (vec + 1#16)) (s.byteAt vec) := by
  rw [byteAt_rom h, byteAt_rom h', Cartridge.vectorTarget]

/-- The target of the IRQ vector, which BRK shares (R71, R252). -/
theorem vectorTarget_irq (s : State) : s.cart.vectorTarget irqVector = hiLo (s.byteAt 0xFFFF#16) (s.byteAt 0xFFFE#16) :=
  vectorTarget_eq_byteAt (by decide) (by decide) s

/-- BRK takes an interrupt from the address after its second byte (R252). -/
theorem exec_brk (s : State) : exec .brk s = .next { s with
    ram := (s.setPc (s.pc + 1#16)).pushedRam (pushedByProgram s.p)
    sp := s.sp - 3#8
    p := putFlag s.p .i true
    pc := hiLo (s.byteAt 0xFFFF#16) (s.byteAt 0xFFFE#16) } := by
  change finish (takeInterrupt (pushedByProgram s.p) (putFlag s.p .i true) irqVector (s.setPc (s.pc + 1#16))) = _
  rw [takeInterrupt_eq (vec := irqVector) (by decide) (by decide), ← sp_sub_three, ← vectorTarget_irq]
  rfl

/-- Settles O56: the three pushed bytes of an interrupt, with PC past BRK's second byte. -/
theorem brkPushesAndVectors : Obligations.BrkPushesAndVectors := by
  unfold Obligations.BrkPushesAndVectors
  refine ⟨.of_encode rfl rfl, fun s hwf => ?_⟩
  exact ⟨_, pushedByProgram s.p, exec_brk s, getFlag_pushedByProgram s.p, .pushed (s := s.setPc (s.pc + 1#16)) hwf rfl,
    .putFlag rfl, rfl, rfl⟩

/-- RTI over the three stack bytes that it pulls (R253). -/
theorem exec_rti (s : State) : exec .rti s = .next { s with
    sp := s.sp + 3#8
    p := pulledStatus (s.ramByte (stackIndex (s.sp + 1#8)))
    pc := hiLo (s.ramByte (stackIndex (s.sp + 3#8))) (s.ramByte (stackIndex (s.sp + 2#8))) } := by
  change finish (returnFromInterrupt s) = _
  rw [returnFromInterrupt_eq, sp_add_three, sp_add_two]
  rfl

/-- The address of two bytes, as a number. -/
theorem hiLo_eq_ofNat (hi lo : Byte) : hiLo hi lo = BitVec.ofNat 16 (lo.toNat + 256 * hi.toNat) := by
  apply BitVec.eq_of_toNat_eq
  rw [BitVec.toNat_ofNat, Nat.mod_eq_of_lt (by omega), hiLo_toNat]
  omega

/-- Settles O57: P is the pulled status, and PC the two bytes above it in numbers. -/
theorem rtiPullsStatusAndPc : Obligations.RtiPullsStatusAndPc := by
  unfold Obligations.RtiPullsStatusAndPc
  refine ⟨.of_encode rfl rfl, fun s => ?_⟩
  exact ⟨_, exec_rti s, getFlag_pulledStatus _, hiLo_eq_ofNat _ _, rfl⟩

end Sys2Proof.Machine
end

section
/-! PROOFS. The statements of spec/50_ppu.md: what no instruction changes, the timing of a pulse and of a frame, and the
registers. -/

namespace Sys2Proof.Machine

/-! ### What no instruction changes -/

/-- `t` has the PPU position, NMI-pending, the IRQ line and the count of free values of `s`. -/
def State.SameTiming (s t : State) : Prop :=
  t.ppu.scanline = s.ppu.scanline ∧ t.ppu.cycle = s.ppu.cycle ∧ t.ppu.nmiPending = s.ppu.nmiPending ∧ t.irq = s.irq ∧
    t.freeCount = s.freeCount

theorem State.SameTiming.trans {s t u : State} (h : s.SameTiming t) (h' : t.SameTiming u) : s.SameTiming u := by
  obtain ⟨hs, hc, hn, hi, hf⟩ := h
  obtain ⟨hs', hc', hn', hi', hf'⟩ := h'
  exact ⟨hs'.trans hs, hc'.trans hc, hn'.trans hn, hi'.trans hi, hf'.trans hf⟩

theorem memRead_sameTiming {a : Addr} {s t : State} {v : Byte} (h : memRead a s = .ok v t) : s.SameTiming t := by
  rw [memRead_frame h]
  exact ⟨rfl, rfl, rfl, rfl, rfl⟩

theorem memWrite_sameTiming {a : Addr} {s t : State} {v : Byte} (h : memWrite a v s = .ok () t) : s.SameTiming t := by
  rw [memWrite_frame h]
  exact ⟨rfl, rfl, rfl, rfl, rfl⟩

/-- No instruction moves the PPU's automaton or touches the interrupt lines (R261). -/
theorem kept_sameTiming (s : State) : Kept s.SameTiming where
  setA := fun _ _ h => h
  setX := fun _ _ h => h
  setY := fun _ _ h => h
  setSp := fun _ _ h => h
  setPc := fun _ _ h => h
  setP := fun _ _ h _ => h
  setFault := fun _ _ h => h
  read := fun _ _ _ _ h hr => h.trans (memRead_sameTiming hr)
  write := fun _ _ _ _ h hw => h.trans (memWrite_sameTiming hw)

/-- Settles O18: what the Bus accesses and register writes leave alone, every instruction leaves alone. -/
theorem instructionsLeaveTimingAndInterrupts : Obligations.InstructionsLeaveTimingAndInterrupts := by
  unfold Obligations.InstructionsLeaveTimingAndInterrupts
  intro i s
  obtain ⟨t, ht, ⟨hcart, hoam, hparams, hready⟩, hline, hcycle, hnmi, hirq, hfree⟩ :=
    ((kept_sameFixed s).and (kept_sameTiming s)).exec_next (fun _ _ h => h) i
      ⟨⟨rfl, rfl, rfl, rfl⟩, rfl, rfl, rfl, rfl, rfl⟩
  exact ⟨t, ht, hline, hcycle, hnmi, hoam, hcart, hirq, hparams, hready, hfree⟩

/-! ### One pulse -/

theorem getLsbD_putVblank (v : Byte) (on : Bool) (k : Nat) :
    (putVblank v on).getLsbD k = if k = 7 then on else v.getLsbD k := by
  rcases Nat.lt_or_ge k 8 with hk | hk
  · cases on <;> interval_cases k <;> simp [putVblank]
  · rw [if_neg (by omega), BitVec.getLsbD_of_ge _ _ hk, BitVec.getLsbD_of_ge _ _ hk]

theorem Ppu.status_tick (u : Ppu) : u.tick.status =
    if u.scanline = 241 ∧ u.cycle = 1 then putVblank u.status true
    else if u.scanline = 261 ∧ u.cycle = 340 then putVblank u.status false else u.status := by
  rw [Ppu.tick_eq]

theorem Ppu.nmiPending_tick (u : Ppu) : u.tick.nmiPending =
    (u.nmiPending || (decide (u.scanline = 241 ∧ u.cycle = 1) && u.ctrl.getLsbD 7)) := by
  rw [Ppu.tick_eq]

theorem Ppu.scanline_tick (u : Ppu) : u.tick.scanline =
    if u.cycle = 340 then (if u.scanline = 261 then 0 else u.scanline + 1) else u.scanline := by
  rw [Ppu.tick_eq]

theorem Ppu.cycle_tick (u : Ppu) : u.tick.cycle = if u.cycle = 340 then 0 else u.cycle + 1 := by
  rw [Ppu.tick_eq]

@[simp] theorem Ppu.ctrl_tick (u : Ppu) : u.tick.ctrl = u.ctrl := by
  rw [Ppu.tick_eq]

/-- The two events write status bit 7 alone. -/
theorem Ppu.getLsbD_status_tick {k : Nat} (h : k ≠ 7) (u : Ppu) : u.tick.status.getLsbD k = u.status.getLsbD k := by
  rw [Ppu.status_tick]
  split
  · rw [getLsbD_putVblank, if_neg h]
  · split
    · rw [getLsbD_putVblank, if_neg h]
    · rfl

/-- Vblank after a pulse: set at (241, 1), cleared at the wrap, and else as it was. -/
theorem Ppu.vblank_tick (u : Ppu) : u.tick.status.getLsbD 7 =
    if u.scanline = 241 ∧ u.cycle = 1 then true
    else if u.scanline = 261 ∧ u.cycle = 340 then false else u.status.getLsbD 7 := by
  rw [Ppu.status_tick]
  split
  · rw [getLsbD_putVblank, if_pos rfl]
  · split
    · rw [getLsbD_putVblank, if_pos rfl]
    · rfl

/-- Settles O20: the frame of `Ppu.tick`, and each field that it changes, by position. -/
theorem ppuPulseChangesOnlyTimingState : Obligations.PpuPulseChangesOnlyTimingState := by
  unfold Obligations.PpuPulseChangesOnlyTimingState
  intro s hfault
  refine ⟨s.ppu.tick.status, s.ppu.tick.scanline, s.ppu.tick.cycle, s.ppu.tick.nmiPending,
    (ppuPulse_of_none hfault).trans (congrArg s.setPpu s.ppu.tick_frame), fun k hk => Ppu.getLsbD_status_tick hk _,
    fun hc => ?sameLine, fun hc hs => ?nextLine, fun hvblank => ?vblank, fun hnot => ?noNmi, fun hwrap => ?wrap,
    fun hnot hnot' => ?noEvent⟩
  case sameLine => rw [Ppu.scanline_tick, Ppu.cycle_tick, if_neg hc, if_neg hc]; exact ⟨rfl, rfl⟩
  case nextLine => rw [Ppu.scanline_tick, Ppu.cycle_tick, if_pos hc, if_pos hc, if_neg hs]; exact ⟨rfl, rfl⟩
  case vblank =>
    rw [Ppu.vblank_tick, Ppu.nmiPending_tick, if_pos hvblank, decide_eq_true hvblank, Bool.true_and]
    exact ⟨rfl, rfl⟩
  case noNmi => rw [Ppu.nmiPending_tick, decide_eq_false hnot, Bool.false_and, Bool.or_false]
  case wrap =>
    obtain ⟨hs, hc⟩ := hwrap
    rw [Ppu.vblank_tick, Ppu.scanline_tick, Ppu.cycle_tick]
    simp [hs, hc]
  case noEvent => rw [Ppu.status_tick, if_neg hnot, if_neg hnot']

/-! ### A frame -/

/-- The coordinates of a position in its range. -/
theorem Ppu.coordinates_of_position {u : Ppu} {n : Nat} (hc : u.cycle < lineCycles) (h : u.position = n) :
    u.scanline = n / 341 ∧ u.cycle = n % 341 := by
  simp only [Ppu.position, lineCycles] at *
  omega

/-- 89,342 pulses return to the position they start at (R264). -/
theorem Ppu.coordinates_frame {u : Ppu} (hs : u.scanline < scanlines) (hc : u.cycle < lineCycles) :
    (Ppu.tick^[89342] u).scanline = u.scanline ∧ (Ppu.tick^[89342] u).cycle = u.cycle := by
  obtain ⟨-, hc', hposition⟩ := Ppu.position_ticks hs hc 89342
  simp only [Ppu.position, scanlines, lineCycles] at *
  omega

theorem Ppu.ctrl_ticks (n : Nat) (u : Ppu) : (Ppu.tick^[n] u).ctrl = u.ctrl := by
  induction n with
  | zero => rfl
  | succ n ih => rw [Function.iterate_succ_apply', Ppu.ctrl_tick, ih]

section
variable {u : Ppu} (hs : u.scanline = 0) (hc : u.cycle = 0)
include hs hc

/-- From (0, 0) the position after `n` pulses of a frame is `n`. -/
theorem Ppu.coordinates_ticks {n : Nat} (h : n < 89342) :
    (Ppu.tick^[n] u).scanline = n / 341 ∧ (Ppu.tick^[n] u).cycle = n % 341 := by
  obtain ⟨-, hc', hposition⟩ := Ppu.position_ticks (u := u) (by rw [hs]; decide) (by rw [hc]; decide) n
  refine Ppu.coordinates_of_position hc' (hposition.trans ?_)
  rw [Ppu.position, hs, hc, Nat.zero_mul, Nat.add_zero, Nat.zero_add, Nat.mod_eq_of_lt h]

/-- Position (241, 1) is where pulse 82,183 starts. -/
theorem Ppu.at_vblank_iff {n : Nat} (h : n < 89342) :
    ((Ppu.tick^[n] u).scanline = 241 ∧ (Ppu.tick^[n] u).cycle = 1) ↔ n = 82182 := by
  obtain ⟨hline, hcycle⟩ := Ppu.coordinates_ticks hs hc h
  omega

/-- Position (261, 340) is where the last pulse of the frame starts. -/
theorem Ppu.at_wrap_iff {n : Nat} (h : n < 89342) :
    ((Ppu.tick^[n] u).scanline = 261 ∧ (Ppu.tick^[n] u).cycle = 340) ↔ n = 89341 := by
  obtain ⟨hline, hcycle⟩ := Ppu.coordinates_ticks hs hc h
  omega

/-- Vblank within a frame that starts with it clear: set from pulse 82,183 to the last but one. -/
theorem Ppu.vblank_ticks (hv : u.status.getLsbD 7 = false) {n : Nat} (h : n ≤ 89342) :
    (Ppu.tick^[n] u).status.getLsbD 7 = decide (82183 ≤ n ∧ n < 89342) := by
  induction n with
  | zero => exact hv
  | succ n ih =>
    have hn : n < 89342 := h
    rw [Function.iterate_succ_apply', Ppu.vblank_tick, ih hn.le]
    simp only [Ppu.at_vblank_iff hs hc hn, Ppu.at_wrap_iff hs hc hn]
    split
    · subst n; rfl
    · split
      · subst n; rfl
      · exact decide_eq_decide.mpr (by omega)

/-- NMI-pending within a frame that starts with it clear: raised in pulse 82,183 if the control register enables it. -/
theorem Ppu.nmiPending_ticks (hn : u.nmiPending = false) {n : Nat} (h : n ≤ 89342) :
    (Ppu.tick^[n] u).nmiPending = (u.ctrl.getLsbD 7 && decide (82183 ≤ n)) := by
  induction n with
  | zero => rw [Function.iterate_zero_apply, hn, decide_eq_false (by decide), Bool.and_false]
  | succ n ih =>
    have hn : n < 89342 := h
    have hrise : decide (82183 ≤ n + 1) = (decide (82183 ≤ n) || decide (n = 82182)) := by
      rw [← Bool.decide_or]
      exact decide_eq_decide.mpr (by omega)
    rw [Function.iterate_succ_apply', Ppu.nmiPending_tick, ih hn.le, Ppu.ctrl_ticks, hrise, Bool.and_or_distrib_left,
      Bool.and_comm (decide _) (u.ctrl.getLsbD 7)]
    simp only [Ppu.at_vblank_iff hs hc hn]

end

/-- Settles O19: the position returns after a frame, and vblank and NMI-pending are known after each pulse of one. -/
theorem frameTiming : Obligations.FrameTiming := by
  unfold Obligations.FrameTiming
  intro s hfault hline hcycle
  simp only [ppu_ppuPulses _ hfault]
  refine ⟨Ppu.coordinates_frame hline hcycle, fun hs hc hv hn => ⟨fun n h => ?during, ?vblankAfter, ?nmiAfter⟩⟩
  case during =>
    obtain ⟨hline', hcycle'⟩ := Ppu.coordinates_ticks hs hc h
    have hvblank := Ppu.vblank_ticks hs hc hv h.le
    rw [Bool.decide_and, decide_eq_true h, Bool.and_true] at hvblank
    exact ⟨hline', hcycle', hvblank, Ppu.nmiPending_ticks hs hc hn h.le⟩
  case vblankAfter => exact Ppu.vblank_ticks hs hc hv le_rfl
  case nmiAfter => exact (Ppu.nmiPending_ticks hs hc hn le_rfl).trans (Bool.and_true _)

/-! ### The registers (R265) -/

section
variable {a : Addr} (hlo : 0x2000 ≤ a.toNat) (hhi : a.toNat < 0x4000) (s : State) (v : Byte)
include hlo hhi

theorem memRead_status (h : a.toNat % 8 = 2) : memRead a s = readStatus s := by
  simp only [memRead_ppu hlo hhi, ppuRegRead, h]

theorem memRead_vramData (h : a.toNat % 8 = 7) : memRead a s = readVramData s := by
  simp only [memRead_ppu hlo hhi, ppuRegRead, h]

theorem memRead_unimplemented (h : 3 ≤ a.toNat % 8) (h' : a.toNat % 8 ≤ 5) :
    memRead a s = ppuUnimplementedAccess (a.toNat % 8) false 0x00#8 s := by
  obtain hk | hk | hk : a.toNat % 8 = 3 ∨ a.toNat % 8 = 4 ∨ a.toNat % 8 = 5 := by omega
  all_goals simp only [memRead_ppu hlo hhi, ppuRegRead, hk]

theorem memWrite_ctrl (h : a.toNat % 8 = 0) : memWrite a v s = .ok () (s.setPpu { s.ppu with ctrl := v }) := by
  simp only [memWrite_ppu hlo hhi, ppuRegWrite, h]

theorem memWrite_mask (h : a.toNat % 8 = 1) : memWrite a v s = .ok () (s.setPpu { s.ppu with mask := v }) := by
  simp only [memWrite_ppu hlo hhi, ppuRegWrite, h]

theorem memWrite_status (h : a.toNat % 8 = 2) : memWrite a v s = raise (.writeReadOnly a) s := by
  simp only [memWrite_ppu hlo hhi, ppuRegWrite, h]

theorem memWrite_unimplemented (h : 3 ≤ a.toNat % 8) (h' : a.toNat % 8 ≤ 5) :
    memWrite a v s = ppuUnimplementedAccess (a.toNat % 8) true () s := by
  obtain hk | hk | hk : a.toNat % 8 = 3 ∨ a.toNat % 8 = 4 ∨ a.toNat % 8 = 5 := by omega
  all_goals simp only [memWrite_ppu hlo hhi, ppuRegWrite, hk]

theorem memWrite_vramAddr (h : a.toNat % 8 = 6) : memWrite a v s = .ok () (s.setPpu (writeVramAddr v s.ppu)) := by
  simp only [memWrite_ppu hlo hhi, ppuRegWrite, h]

theorem memWrite_vramData (h : a.toNat % 8 = 7) : memWrite a v s = writeVramData v s := by
  simp only [memWrite_ppu hlo hhi, ppuRegWrite, h]

end

/-- Settles O26, by the register's rule. -/
theorem controlAndMaskWritesStore : Obligations.ControlAndMaskWritesStore := by
  unfold Obligations.ControlAndMaskWritesStore
  exact fun s _ v hlo hhi => ⟨memWrite_ctrl hlo hhi s v, memWrite_mask hlo hhi s v⟩

/-- Settles O31, by the registers' rules. -/
theorem directionViolations : Obligations.DirectionViolations := by
  unfold Obligations.DirectionViolations
  exact fun s _ v hlo hhi => ⟨fun h => memRead_writeOnly hlo hhi h s, memWrite_status hlo hhi s v⟩

theorem ppuUnimplementedAccess_of_fault {α : Type} {s : State} (h : s.params.ppuUnimpl = .fault) (offset : Nat)
    (write : Bool) (v : α) :
    ppuUnimplementedAccess offset write v s = .stop { s with fault := some (.ppuUnimplemented offset write) } := by
  rw [ppuUnimplementedAccess, h]
  rfl

theorem ppuUnimplementedAccess_of_ignore {α : Type} {s : State} (h : s.params.ppuUnimpl = .ignore) (offset : Nat)
    (write : Bool) (v : α) : ppuUnimplementedAccess offset write v s = .ok v s := by
  rw [ppuUnimplementedAccess, h]

/-- Settles O32: the three offsets are one access, under each value of the parameter. -/
theorem unimplementedOffsets : Obligations.UnimplementedOffsets := by
  unfold Obligations.UnimplementedOffsets
  intro s a v hlo hhi h h'
  rw [memRead_unimplemented hlo hhi s h h', memWrite_unimplemented hlo hhi s v h h']
  exact ⟨fun hp => ⟨ppuUnimplementedAccess_of_fault hp _ _ _, ppuUnimplementedAccess_of_fault hp _ _ _⟩,
    fun hp => ⟨ppuUnimplementedAccess_of_ignore hp _ _ _, ppuUnimplementedAccess_of_ignore hp _ _ _⟩⟩

/-! ### The status read -/

/-- The byte of a status read, bit by bit: the low five from the read buffer, the rest from status (R268). -/
theorem getLsbD_statusByte (status rbuf : Byte) (k : Nat) :
    ((status &&& 0xE0#8) ||| (rbuf &&& 0x1F#8)).getLsbD k = if k < 5 then rbuf.getLsbD k else status.getLsbD k := by
  rcases Nat.lt_or_ge k 8 with hk | hk
  · interval_cases k <;> simp
  · rw [if_neg (by omega), BitVec.getLsbD_of_ge _ _ hk, BitVec.getLsbD_of_ge _ _ hk]

/-- Settles O27: the byte and the new status, bit by bit. -/
theorem statusRead : Obligations.StatusRead := by
  unfold Obligations.StatusRead
  intro s a hlo hhi h
  refine ⟨_, putVblank s.ppu.status false, memRead_status hlo hhi s h, getLsbD_statusByte _ _, ?_, fun k hk => ?_⟩
  · rw [getLsbD_putVblank, if_pos rfl]
  · rw [getLsbD_putVblank, if_neg hk]

/-! ### The VRAM address -/

/-- `& 0x3FFF` in numbers. -/
theorem toNat_and_3FFF (x : Addr) : (x &&& 0x3FFF#16).toNat = x.toNat % 0x4000 :=
  (BitVec.toNat_and ..).trans (Nat.and_two_pow_sub_one_eq_mod _ 14)

/-- A write of the VRAM address changes the address and toggles the latch. -/
theorem writeVramAddr_frame (v : Byte) (u : Ppu) :
    writeVramAddr v u = { u with vaddr := (writeVramAddr v u).vaddr, w := !u.w } := by
  unfold writeVramAddr
  split <;> simp [*]

/-- The first write of a pair: the high byte, cut to six bits (R269). -/
theorem vaddr_writeVramAddr_high (v : Byte) {u : Ppu} (h : u.w = false) :
    (writeVramAddr v u).vaddr.toNat = (v.toNat % 64) * 256 + u.vaddr.toNat % 256 := by
  rw [writeVramAddr, h, if_neg Bool.false_ne_true, toNat_and_3FFF, hiLo_toNat, lo8_toNat]
  omega

/-- The second write of a pair: the low byte (R269). -/
theorem vaddr_writeVramAddr_low (v : Byte) {u : Ppu} (h : u.w = true) :
    (writeVramAddr v u).vaddr.toNat = (u.vaddr.toNat / 256 % 64) * 256 + v.toNat := by
  rw [writeVramAddr, if_pos h, toNat_and_3FFF, hiLo_toNat, hi8_toNat]
  omega

/-- Settles O28: one write under each value of the latch, and the second write after the first. -/
theorem vramAddressWrites : Obligations.VramAddressWrites := by
  unfold Obligations.VramAddressWrites
  intro s a v lo hlo hhi h
  have hwrite (t : State) (b : Byte) : memWrite a b t =
      .ok () (t.setPpu { t.ppu with vaddr := (writeVramAddr b t.ppu).vaddr, w := !t.ppu.w }) := by
    rw [memWrite_vramAddr hlo hhi t b h, ← writeVramAddr_frame]
  refine ⟨_, hwrite s v, fun hw => ⟨vaddr_writeVramAddr_high v hw, _, hwrite _ lo, ?_⟩, vaddr_writeVramAddr_low v⟩
  have hhigh := vaddr_writeVramAddr_high v hw
  refine (vaddr_writeVramAddr_low lo rfl).trans ?_
  dsimp only
  omega

/-- The advance of the VRAM address in numbers (R278). -/
theorem Ppu.advanceVaddr_eq (u : Ppu) : u.advanceVaddr =
    { u with vaddr := BitVec.ofNat 16 ((u.vaddr.toNat + if u.ctrl.getLsbD 2 then 32 else 1) % 0x4000) } := by
  have hvaddr : (u.vaddr + BitVec.ofNat 16 u.increment) &&& 0x3FFF#16 =
      BitVec.ofNat 16 ((u.vaddr.toNat + u.increment) % 0x4000) := by
    apply BitVec.eq_of_toNat_eq
    rw [toNat_and_3FFF, BitVec.toNat_add, BitVec.toNat_ofNat, BitVec.toNat_ofNat]
    omega
  rw [Ppu.advanceVaddr, hvaddr]
  rfl

/-! ### The PPU's address space (R274, R275) -/

section
variable {a : Addr} (s : State) (v : Byte)

theorem ppuRead_pattern (h : a.toNat < 0x2000) : ppuRead a s = .ok (s.chrByte a.toNat) s := by
  rw [ppuRead, if_pos h, State.chrByte]

theorem ppuRead_nametable (h : 0x2000 ≤ a.toNat) (h' : a.toNat < 0x3000) :
    ppuRead a s = .ok (s.ppu.vram.read (ntIndex s.cart.mirroring a.toNat)) s := by
  rw [ppuRead, if_neg (by omega), if_pos h']

theorem ppuRead_unmapped (h : 0x3000 ≤ a.toNat) (h' : a.toNat < 0x3F00) :
    ppuRead a s = .stop { s with fault := some (.ppuUnmapped a) } := by
  rw [ppuRead, if_neg (by omega), if_neg (by omega), if_pos h']
  rfl

theorem ppuRead_palette (h : 0x3F00 ≤ a.toNat) : ppuRead a s = .ok (s.ppu.palette.read (palIndex a.toNat)) s := by
  rw [ppuRead, if_neg (by omega), if_neg (by omega), if_neg (by omega)]

theorem ppuWrite_pattern (h : a.toNat < 0x2000) : ppuWrite a v s = .stop { s with fault := some (.romWrite a) } := by
  rw [ppuWrite, if_pos h]
  rfl

theorem ppuWrite_nametable (h : 0x2000 ≤ a.toNat) (h' : a.toNat < 0x3000) : ppuWrite a v s =
    .ok () (s.setPpu { s.ppu with vram := s.ppu.vram.write (ntIndex s.cart.mirroring a.toNat) v }) := by
  rw [ppuWrite, if_neg (by omega), if_pos h']

theorem ppuWrite_unmapped (h : 0x3000 ≤ a.toNat) (h' : a.toNat < 0x3F00) :
    ppuWrite a v s = .stop { s with fault := some (.ppuUnmapped a) } := by
  rw [ppuWrite, if_neg (by omega), if_neg (by omega), if_pos h']
  rfl

theorem ppuWrite_palette (h : 0x3F00 ≤ a.toNat) : ppuWrite a v s =
    .ok () (s.setPpu { s.ppu with palette := s.ppu.palette.write (palIndex a.toNat) v }) := by
  rw [ppuWrite, if_neg (by omega), if_neg (by omega), if_neg (by omega)]

end

/-! ### VRAM data -/

/-- A VRAM data read whose access delivers `b`: the buffer takes `b` and the address advances (R270). -/
theorem readVramData_of_ok {s : State} {b : Byte} (h : ppuRead s.ppu.vaddr s = .ok b s) :
    readVramData s = .ok (if 0x3F00 ≤ s.ppu.vaddr.toNat then b else s.ppu.rbuf)
      (s.setPpu { s.ppu with
        rbuf := b
        vaddr := BitVec.ofNat 16 ((s.ppu.vaddr.toNat + if s.ppu.ctrl.getLsbD 2 then 32 else 1) % 0x4000) }) := by
  rw [readVramData, h, Bus.ok_andThen, Ppu.advanceVaddr_eq]

theorem readVramData_of_stop {s t : State} (h : ppuRead s.ppu.vaddr s = .stop t) : readVramData s = .stop t := by
  rw [readVramData, h, Bus.stop_andThen]

/-- Settles O29: the read of the PPU's address space by region; the palette is where the byte is returned directly. -/
theorem vramDataRead : Obligations.VramDataRead := by
  unfold Obligations.VramDataRead
  intro s a hlo hhi h _ n inc after
  rw [memRead_vramData hlo hhi s h]
  have hbuffered (hn : n < 0x3F00) {b : Byte} (hb : ppuRead s.ppu.vaddr s = .ok b s) :
      readVramData s = .ok s.ppu.rbuf (after b) := by
    rw [readVramData_of_ok hb, if_neg (Nat.not_le.mpr hn)]
    rfl
  refine ⟨fun hn => hbuffered (by omega) (ppuRead_pattern s hn),
    fun hn hn' => hbuffered (by omega) (ppuRead_nametable s hn hn'),
    fun hn hn' => readVramData_of_stop (ppuRead_unmapped s hn hn'), fun hn => ?palette⟩
  case palette =>
    rw [readVramData_of_ok (ppuRead_palette s hn), if_pos hn]
    rfl

/-- A VRAM data write whose access leaves the PPU `u`: the address advances (R271). -/
theorem writeVramData_of_ok {s : State} {v : Byte} {u : Ppu} (h : ppuWrite s.ppu.vaddr v s = .ok () (s.setPpu u)) :
    writeVramData v s = .ok () (s.setPpu { u with
      vaddr := BitVec.ofNat 16 ((u.vaddr.toNat + if u.ctrl.getLsbD 2 then 32 else 1) % 0x4000) }) := by
  rw [writeVramData, h, Bus.ok_andThen, State.setPpu_ppu, Ppu.advanceVaddr_eq]
  rfl

theorem writeVramData_of_stop {s t : State} {v : Byte} (h : ppuWrite s.ppu.vaddr v s = .stop t) :
    writeVramData v s = .stop t := by
  rw [writeVramData, h, Bus.stop_andThen]

/-- Settles O30: the write of the PPU's address space by region, over the law of a memory write. -/
theorem vramDataWrite : Obligations.VramDataWrite := by
  unfold Obligations.VramDataWrite
  intro s a v hlo hhi h _ hvram hpalette n inc next
  rw [memWrite_vramData hlo hhi s v h]
  exact ⟨fun hn => writeVramData_of_stop (ppuWrite_pattern s v hn),
    fun hn hn' => ⟨_, (writeVramData_of_ok (ppuWrite_nametable s v hn hn') :), fun k => Memory.read_write hvram _ k v⟩,
    fun hn hn' => writeVramData_of_stop (ppuWrite_unmapped s v hn hn'),
    fun hn => ⟨_, (writeVramData_of_ok (ppuWrite_palette s v hn) :), fun k => Memory.read_write hpalette _ k v⟩⟩

/-! ### The folds -/

section
variable {off : Nat} (h : off < 0x400) (t : Nat)
include h

/-- Horizontally, logical table `t` is in bank `t / 2`, each byte at its offset (R276). -/
theorem ntIndex_horizontal : ntIndex .horizontal (0x2000 + 0x400 * t + off) = 0x400 * (t / 2) + off := by
  simp only [ntIndex]
  omega

/-- Vertically, it is in bank `t % 2` (R276). -/
theorem ntIndex_vertical : ntIndex .vertical (0x2000 + 0x400 * t + off) = 0x400 * (t % 2) + off := by
  simp only [ntIndex]
  omega

end

theorem palIndex_palette (k : Nat) :
    palIndex (0x3F00 + k) = if k % 32 ∈ [0x10, 0x14, 0x18, 0x1C] then k % 32 - 0x10 else k % 32 := by
  have hrepeat : (0x3F00 + k) % 0x20 = k % 32 := by omega
  simp only [palIndex, hrepeat, List.mem_cons, List.not_mem_nil, or_false]

/-- Settles O33: the four logical tables under each mirroring, and the palette's repeat. -/
theorem nametableAndPaletteFolds : Obligations.NametableAndPaletteFolds := by
  unfold Obligations.NametableAndPaletteFolds
  refine ⟨fun off h => ?tables, fun k _ => palIndex_palette k⟩
  have hhorizontal := ntIndex_horizontal h
  have hvertical := ntIndex_vertical h
  exact ⟨by simpa using hhorizontal 0, by simpa using hhorizontal 1, by simpa using hhorizontal 2,
    by simpa using hhorizontal 3, by simpa using hvertical 0, by simpa using hvertical 1, by simpa using hvertical 2,
    by simpa using hvertical 3⟩

end Sys2Proof.Machine
end

section
/-! PROOFS. The statements of spec/60_exceptions.md: the pulse that takes an interrupt, and what RTI makes of the state that it leaves. -/

namespace Sys2Proof.Machine

/-! ### The entries -/

/-- A pulse whose boundary takes an interrupt is the entry in full, less the cycle of the pulse itself (R121, R309): an entry cannot
fault. -/
theorem cpuPulse_of_boundary_entry {s u : State} {k : InterruptKind} (hrunning : s.Running) (hcycles : s.cycles = 0)
    (hentry : boundary s.irq.level (s.setIrq s.irq.next) = finish (interruptEntry k u)) (hfault : u.fault = none) :
    cpuPulse s = .next { u with
      ram := u.pushedRam (pushedByEntry u.p), sp := u.sp - 3#8, p := storedByEntry u.p
      pc := hiLo (u.byteAt (k.vector + 1#16)) (u.byteAt k.vector), cycles := k.entryCycles - 1 } := by
  obtain ⟨hlow, hhigh⟩ := interruptVector_isRom k
  rw [cpuPulse_boundary hrunning hcycles, hentry, interruptEntry_eq, vectorTarget_eq_byteAt hlow hhigh, sp_sub_three,
    finish_ok, endPulse]
  simp only [hfault, Option.isSome_none, Bool.false_eq_true, if_false]
  rfl

/-- Settles O8: NMI-pending decides the boundary before the IRQ line and I are looked at. -/
theorem nmiEntry : Obligations.NmiEntry := by
  unfold Obligations.NmiEntry
  intro s hrunning hcycles hpending hwf
  have hfault : s.fault = none := hrunning.2
  have hpulse := cpuPulse_of_boundary_entry hrunning hcycles
    (boundary_nmi (s := s.setIrq s.irq.next) hpending s.irq.level) hfault
  exact ⟨_, pushedByEntry s.p, hpulse, getFlag_pushedByEntry s.p, .pushed hwf rfl, .storedByEntry rfl, rfl, rfl, rfl, rfl⟩

/-- Settles O9: with no NMI pending, an asserted line and I = 0 decide the boundary. -/
theorem irqEntry : Obligations.IrqEntry := by
  unfold Obligations.IrqEntry
  intro s hrunning hcycles hpending hline hmask hwf
  have hfault : s.fault = none := hrunning.2
  have hboundary : boundary s.irq.level (s.setIrq s.irq.next) = finish (interruptEntry .irq (s.setIrq s.irq.next)) := by
    rw [hline]
    exact boundary_irq hpending hmask
  have hpulse := cpuPulse_of_boundary_entry hrunning hcycles hboundary hfault
  exact ⟨_, pushedByEntry s.p, hpulse, getFlag_pushedByEntry s.p, .pushed hwf rfl, .storedByEntry rfl, rfl, rfl, rfl, rfl⟩

/-! ### The return -/

/-- RTI undoes three pushes, whoever made them: P comes from the status byte, PC from the address, and SP goes back to where the pushes
began, also where it wraps (R253). -/
theorem exec_rti_of_pushed {s t : State} {pc : Addr} {pushed : Byte} (hsp : t.sp = s.sp - 3#8)
    (hram : RamBecomes s t [(stackIndex s.sp, hi8 pc), (stackIndex (s.sp - 1#8), lo8 pc), (stackIndex (s.sp - 2#8), pushed)]) :
    exec .rti t = .next { t with p := pulledStatus pushed, pc := pc, sp := s.sp } := by
  have hhigh : t.ramByte (stackIndex (t.sp + 3#8)) = hi8 pc := by
    rw [hsp, BitVec.sub_add_cancel]
    exact hram.ramByte_of_lookup List.lookup_cons_self
  have hlow : t.ramByte (stackIndex (t.sp + 2#8)) = lo8 pc := by
    rw [hsp, show s.sp - 3#8 + 2#8 = s.sp - 1#8 by bv_omega]
    refine hram.ramByte_of_lookup ?_
    rw [lookup_cons_if, if_neg (stackIndex_sub_one_ne s.sp), List.lookup_cons_self]
  have hstatus : t.ramByte (stackIndex (t.sp + 1#8)) = pushed := by
    have hne : s.sp - 2#8 ≠ s.sp := by bv_omega
    have hne' : s.sp - 2#8 ≠ s.sp - 1#8 := by bv_omega
    rw [hsp, show s.sp - 3#8 + 1#8 = s.sp - 2#8 by bv_omega]
    refine hram.ramByte_of_lookup ?_
    rw [lookup_cons_if, if_neg (mt stackIndex_inj.mp hne), lookup_cons_if, if_neg (mt stackIndex_inj.mp hne'),
      List.lookup_cons_self]
  rw [exec_rti, hhigh, hlow, hstatus, hiLo_hi8_lo8, hsp, BitVec.sub_add_cancel]

/-- Pulling a status byte that holds the flags of `s` gives them back, but for the stored B and U, whatever B and U were pushed (D11). -/
theorem FlagsBecome.pulledStatus {s u : State} {pushed : Byte} (h : u.p = Machine.pulledStatus pushed)
    (hpushed : ∀ f, f ≠ .b → f ≠ .u → getFlag pushed f = s.flag f) : FlagsBecome s u [(.b, false), (.u, true)] := by
  intro f
  rw [State.flag_def, h, getFlag_pulledStatus, lookup_cons_if, lookup_cons_if]
  split
  · rfl
  · split
    · rfl
    · exact hpushed f ‹_› ‹_›

/-- Settles O58: an interrupt and BRK leave the same three stack bytes, with P's flags in the status byte but for B and U. -/
theorem rtiUndoesAnEntry : Obligations.RtiUndoesAnEntry := by
  unfold Obligations.RtiUndoesAnEntry
  intro s t hwf
  refine ⟨fun k hentry => ?interrupt, fun hbrk => ?brk⟩
  case interrupt =>
    obtain ⟨-, rfl⟩ := Bus.ok.inj ((interruptEntry_eq k s).symm.trans hentry)
    refine ⟨_, exec_rti_of_pushed (sp_sub_three s.sp) (.pushed hwf rfl), .pulledStatus rfl fun f hb hu => ?_, rfl⟩
    rw [getFlag_pushedByEntry, if_neg hb, if_neg hu, State.flag_def]
  case brk =>
    obtain ⟨-, hbrkPushes⟩ := brkPushesAndVectors
    obtain ⟨u, pushed, hu, hpushed, hram, -, -, hframe⟩ := hbrkPushes s hwf
    obtain rfl : t = u := Host.Outcome.next.inj (hbrk.symm.trans hu)
    have hsp : t.sp = s.sp - 3#8 := by rw [hframe]
    refine ⟨_, exec_rti_of_pushed hsp hram, .pulledStatus rfl fun f hb hu => ?_, rfl⟩
    rw [hpushed f, if_neg (not_or.mpr ⟨hb, hu⟩)]

end Sys2Proof.Machine
end

section
/-! PROOFS. The statement of spec/70_reset_and_hazards.md: the idle pulses after `reset()`. -/

namespace Sys2Proof.Machine

/-- The pulses after `m` pulses go on from their PPU, whatever the CPU has done in between: a pulse of the PPU reads no more than the PPU
and whether a fault is recorded. -/
theorem ppu_ppuPulses_add (m n : Nat) {s t : State} (hs : s.fault = none) (ht : t.fault = none)
    (hppu : t.ppu = (ppuPulses m s).ppu) : (ppuPulses n t).ppu = (ppuPulses (n + m) s).ppu := by
  rw [ppu_ppuPulses n ht, hppu, ppu_ppuPulses m hs, ppu_ppuPulses (n + m) hs, Function.iterate_add_apply]

/-- As many calls as the counter allows are idle for the CPU, while the PPU makes three pulses a call (R122, R340). -/
theorem run_executing {n : Nat} {s : State} (hrunning : s.Running) (hn : n ≤ s.cycles) :
    Sys2Proof.core.run n s = .next { s with cycles := s.cycles - n, ppu := (ppuPulses (3 * n) s).ppu } := by
  induction n generalizing s with
  | zero => rfl
  | succ n ih =>
    let t : State := { s with cycles := s.cycles - 1, ppu := (ppuPulses 3 s).ppu }
    have hstep : step s = .next t := step_executing hrunning (Nat.ne_zero_of_lt hn)
    have hrest := ih (s := t) hrunning (Nat.le_sub_one_of_lt hn)
    have hppu : (ppuPulses (3 * n) t).ppu = (ppuPulses (3 * (n + 1)) s).ppu :=
      ppu_ppuPulses_add 3 (3 * n) hrunning.2 hrunning.2 rfl
    have hcycles : t.cycles - n = s.cycles - (n + 1) := by rw [Nat.sub_sub, Nat.add_comm]
    rw [run_succ hstep, hrest, hppu, hcycles]

/-- Settles O16: reset leaves a running machine with 8 in the counter. -/
theorem resetIsFollowedByEightIdlePulses : Obligations.ResetIsFollowedByEightIdlePulses := by
  unfold Obligations.ResetIsFollowedByEightIdlePulses
  intro s hfault
  have hrunning : (hostReset s).Running := by
    rw [hostReset_frame hfault]
    exact ⟨rfl, hfault⟩
  have hcycles : (hostReset s).cycles = 8 := by rw [hostReset_frame hfault]
  rw [run_executing hrunning hcycles.ge, hcycles]

end Sys2Proof.Machine
end
